-- ==== Sys2Proof/Word.lean ====
section
/-! DEFINITION. The words the command port carries and the soft symbols a received burst carries. -/

namespace Sys2Proof

/-- A 32-bit word of the command port, of a control register or of an output record (R10, R89):
bit 31 is the most significant. -/
abbrev Word := BitVec 32

/-- A soft symbol code (R11): 0 is a certain 0, 254 a certain 1, 127 the erasure; 255 is illegal (R115). -/
abbrev Soft := BitVec 8

/-- The erasure, the value 0.5 (R11). -/
abbrev erasure : Soft := 127#8

/-- The illegal soft code (R115). -/
abbrev illegalSoft : Soft := 255#8

end Sys2Proof
end

