-- ==== Sys2Proof/Machine/Bits.lean ====
section
/-! DEFINITION. Bit vectors in the spec's order and the bit primitives (R8, R9, R150, R151). A vector `v` of `n`
bits is a `BitVec n` whose element `v[i]` is `v.getMsbD i`: the first element is the most significant bit, so `a ‖ b`
is `a ++ b` and the polynomial of R12 has the vector's number as its coefficients. -/

namespace Sys2Proof.Machine

/-- The bit vector of length `n` with elements `f 0, …, f (n-1)` (R8). -/
def bitsOf : (n : Nat) → (Nat → Bool) → BitVec n
  | 0, _ => 0#0
  | n + 1, f => (bitsOf n f).concat (f n)

/-- The vector of length `n` with elements `f 0, …, f (n-1)`. -/
def vecOf {α : Type} (n : Nat) (f : Nat → α) : Vector α n :=
  ⟨((List.range n).map f).toArray, by simp⟩

/-- The elements of a bit vector, first element first (R8). -/
def bitList {n : Nat} (v : BitVec n) : List Bool := (List.range n).map v.getMsbD

/-- The slice `v[pos .. pos+len)` (R8; `segment(pos,len)` of R151). -/
def slice {n : Nat} (v : BitVec n) (pos len : Nat) : BitVec len := v.extractLsb' (n - pos - len) len

/-- `peek(v, pos, len)` (R9): the unsigned value of a slice, first element most significant. -/
def peek {n : Nat} (v : BitVec n) (pos len : Nat) : Nat := (slice v pos len).toNat

/-- `fill(v, pos, len, x)` (R9): the slice at `pos` becomes the low `len` bits of `x`. -/
def fill {n : Nat} (v : BitVec n) (pos len x : Nat) : BitVec n :=
  bitsOf n fun i => if pos ≤ i ∧ i < pos + len then x.testBit (len - 1 - (i - pos)) else v.getMsbD i

/-- Write `x` through the view of `v` that starts at `pos` (R8; `copyToSegment` of R151). -/
def writeView {n len : Nat} (v : BitVec n) (pos : Nat) (x : BitVec len) : BitVec n := fill v pos len x.toNat

/-- The vector with element `i` set to `b`. -/
def setBit {n : Nat} (v : BitVec n) (i : Nat) (b : Bool) : BitVec n :=
  if b then v ||| BitVec.twoPow n (n - 1 - i) else v &&& ~~~BitVec.twoPow n (n - 1 - i)

/-- `LSB8MSB(v)` (R150): the bits of each whole octet reversed; the last `n mod 8` elements unchanged. -/
def lsb8msb {n : Nat} (v : BitVec n) : BitVec n :=
  bitsOf n fun i => if i / 8 < n / 8 then v.getMsbD (8 * (i / 8) + (7 - i % 8)) else v.getMsbD i

/-- `hard(q)` (R11): 1 for a code above the erasure. -/
def hard (q : Soft) : Bool := 127 < q.toNat

/-- The hard-decision image of a bit (R194): the code 254 or 0. -/
def softOf (b : Bool) : Soft := if b then 254#8 else 0#8

/-- The hard-decision image of a bit vector (R194). -/
def image {n : Nat} (v : BitVec n) : Vector Soft n := vecOf n fun i => softOf (v.getMsbD i)

end Sys2Proof.Machine
end

