-- ==== Sys2Proof/Config.lean ====
section
/-! DEFINITION. The parameters of R6: the record `Params` that the operations take as an argument, and, as constants
without a body, the tables that R6 leaves open. The values this spec's hardware takes are `Machine.hardware`. -/

namespace Sys2Proof.Config

/-- `TSC[0..8)`, the normal-burst training sequences (R6, D9): open; the spec's K10 lists candidates for the
parameter, 'not its definition', so no value is taken (log entry 5). -/
opaque tsc : BitVec 3 → BitVec 26

/-- `SCH_TRAIN`, the SCH extended training sequence (R6, D10): open (log entry 5). -/
opaque schTrain : BitVec 64

/-- `DUMMY_BURST`, the idle-fill burst on C0 (R6, D11): open, no candidate (log entry 5). -/
opaque dummyBurst : BitVec 148

/-- `TCH_ORDER`, the permutation of [0,260) standing for `g610BitOrder` (R6, D12): open, no candidate
(log entry 5). -/
opaque tchOrder : Equiv.Perm (Fin 260)

/-- `TCH_FILLER`, the 456-bit filler coded block (R6, D13): open, no candidate (log entry 5). -/
opaque tchFiller : BitVec 456

/-- The parameters of the block (R6; I8 to I11 of 93_implementation_defined.md). -/
structure Params where
  /-- `H`, the hyperframe length in TDMA frames: a frame number is in `[0, H)` (R14). -/
  hyperframe   : Nat
  /-- `NUM_CTX`, the number of channel contexts. -/
  numCtx       : Nat
  /-- `MAX_M`, the largest `numFrames m` of a mapping. -/
  maxM         : Nat
  /-- `RACH_Q_DEPTH`. -/
  rachQDepth   : Nat
  /-- `FACCH_Q_DEPTH`. -/
  facchQDepth  : Nat
  /-- `SPEECH_Q_DEPTH`. -/
  speechQDepth : Nat
  /-- `TB_WIDTH`, the width of the `totalBursts` counter; at most the 32 bits that `CH_STATUS` reports (R275). -/
  tbWidth      : Nat
  /-- `VD(q, n)`, the Viterbi decoding function (R196). -/
  vd           : (n : Nat) → Vector Soft (2 * n) → BitVec n
  /-- `TSC[0..8)`. -/
  tsc          : BitVec 3 → BitVec 26
  /-- `SCH_TRAIN`. -/
  schTrain     : BitVec 64
  /-- `DUMMY_BURST`. -/
  dummyBurst   : BitVec 148
  /-- `TCH_ORDER`. -/
  tchOrder     : Equiv.Perm (Fin 260)
  /-- `TCH_FILLER`. -/
  tchFiller    : BitVec 456
  /-- `FACCH_DETECT(o)` of the block at offset `o` (R334), on the soft stealing flags `dHl` and `dHu`. -/
  facchDetect  : Nat → Vector Soft 8 → Vector Soft 8 → Bool
  /-- `G_FIRE` without its leading term `x^40`. -/
  gFire        : BitVec 40
  /-- `G_SCH` without its leading term `x^10`. -/
  gSch         : BitVec 10
  /-- `G_RACH` without its leading term `x^6`. -/
  gRach        : BitVec 6
  /-- `G_TCH` without its leading term `x^3`. -/
  gTch         : BitVec 3
  /-- `M_FER`, the FER filter constant `M` (R350). -/
  mFer         : Nat
  /-- The reset value of `T3101_MS` (R34). -/
  t3101Ms      : Word
  /-- The reset value of `T3109_MS` (R34). -/
  t3109Ms      : Word
  /-- The reset value of `T3111_MS` (R34). -/
  t3111Ms      : Word

end Sys2Proof.Config
end

