-- ==== Sys2Proof/Machine/Viterbi.lean ====
section
/-! DEFINITION. The convolutional code and the default Viterbi decoder `VD_ML` (R190 to R196). -/

namespace Sys2Proof.Machine

/-- `u[k - d]`, 0 before the start (R190). -/
def tap {n : Nat} (u : BitVec n) (k d : Nat) : Bool := decide (d ≤ k) && u.getMsbD (k - d)

/-- `convEncode(u)` (R190): `G0 = 1 + D^3 + D^4` then `G1 = 1 + D + D^3 + D^4` for every input bit. -/
def convEncode {n : Nat} (u : BitVec n) : BitVec (2 * n) :=
  bitsOf (2 * n) fun i =>
    let g0 := xor (xor (tap u (i / 2) 0) (tap u (i / 2) 3)) (tap u (i / 2) 4)
    if i % 2 = 0 then g0 else xor g0 (tap u (i / 2) 1)

/-- What one soft symbol adds to the metric of a candidate whose coded bit is `c` (R195). -/
def symbolMetric (q : Soft) (c : Bool) : Int := if c then (q.toNat : Int) - 127 else 127 - (q.toNat : Int)

/-- `metric(u, q)` (R195). -/
def metric {n : Nat} (u : BitVec n) (q : Vector Soft (2 * n)) : Int :=
  (List.zipWith symbolMetric q.toList (bitList (convEncode u))).sum

/-- A survivor of the Viterbi search: its metric so far and its input bits so far, as a number with the first bit most
significant, so that of two survivors of one length the smaller number is the lexicographically smaller. -/
structure Survivor where
  metric : Int
  path   : Nat
deriving DecidableEq, Repr

/-- The better of two survivors (R196): larger metric first, then smaller path. -/
def better (a b : Option Survivor) : Option Survivor :=
  match a, b with
  | none, b => b
  | a, none => a
  | some x, some y =>
    if y.metric < x.metric ∨ (y.metric = x.metric ∧ x.path ≤ y.path) then some x else some y

/-- The survivor extended by input bit `u` out of encoder state `st` on the symbols `q0`, `q1`. Bit `i` of a state is
the input `i + 1` steps back (R190). -/
def extend (q0 q1 : Soft) (st : Nat) (u : Bool) (s : Option Survivor) : Option Survivor :=
  match s with
  | none => none
  | some s =>
    let c0 := xor (xor u (st.testBit 2)) (st.testBit 3)
    let c1 := xor c0 (st.testBit 0)
    some ⟨s.metric + (symbolMetric q0 c0 + symbolMetric q1 c1), 2 * s.path + u.toNat⟩

/-- One step of the search over the 16 states: state `ns` is reached from states `ns / 2` and `ns / 2 + 8` by input bit
`ns mod 2`. -/
def searchStep (q0 q1 : Soft) (sv : List (Option Survivor)) : List (Option Survivor) :=
  (List.range 16).map fun ns =>
    better (extend q0 q1 (ns / 2) (ns % 2 == 1) (sv.getD (ns / 2) none))
      (extend q0 q1 (ns / 2 + 8) (ns % 2 == 1) (sv.getD (ns / 2 + 8) none))

/-- The search over the symbols, two at a time. -/
def search : List Soft → List (Option Survivor) → List (Option Survivor)
  | q0 :: q1 :: qs, sv => search qs (searchStep q0 q1 sv)
  | _, sv => sv

/-- The survivors before the first symbol: the encoder starts in state 0 (R190, R196). -/
def searchStart : List (Option Survivor) := some ⟨0, 0⟩ :: List.replicate 15 none

/-- `VD_ML`, the default of the parameter `VD` (R196): the maximum-likelihood decoder, as a Viterbi search. -/
def viterbi (n : Nat) (q : Vector Soft (2 * n)) : BitVec n :=
  match (search q.toList searchStart).foldl better none with
  | some s => BitVec.ofNat n s.path
  | none => 0#n

/-- Law 1 of R196, which binds every `VD`: decoding a clean codeword (R194) gives back its input, terminated or not. Law 2
gives no figure to hold a function to. -/
def CleanCodewordLaw (vd : (n : Nat) → Vector Soft (2 * n) → BitVec n) : Prop :=
  ∀ (n : Nat) (u : BitVec n), vd n (image (convEncode u)) = u

end Sys2Proof.Machine
end

