-- ==== Sys2Proof/Machine/Hardware.lean ====
section
/-! DEFINITION. The parameter values that this spec's hardware takes (R6): the default of every parameter that has one, and
the open tables. -/

namespace Sys2Proof.Machine

/-- The default of `FACCH_DETECT(o)` (R334): the majority of the block's eight soft stealing flags, `Hu` of its first-slot rows
`o … o+3` and `Hl` of the other four. -/
def facchMajority (o : Nat) (hl hu : Vector Soft 8) : Bool :=
  let first := (List.range 4).map fun r => (hu.getD (o + r) 0).toNat
  let second := (List.range 4).map fun r => (hl.getD ((o + 4 + r) % 8) 0).toNat
  decide (1016 < first.sum + second.sum)

/-- The parameters of this spec's hardware (R6): 'where a default is given, it is the value this spec's hardware takes' (log
entry 8); the tables without a default are the constants of `Config` (log entry 5). -/
def hardware : Config.Params :=
  { hyperframe := 2715648, numCtx := 64, maxM := 255, rachQDepth := 16, facchQDepth := 8, speechQDepth := 16, tbWidth := 32
    vd := viterbi, facchDetect := facchMajority
    tsc := Config.tsc, schTrain := Config.schTrain, dummyBurst := Config.dummyBurst
    tchOrder := Config.tchOrder, tchFiller := Config.tchFiller
    -- 0x10004820009, 0x575, 0x6F and 0xB without their leading terms
    gFire := 0x0004820009#40, gSch := 0x175#10, gRach := 0x2F#6, gTch := 0x3#3
    mFer := 208, t3101Ms := 1000, t3109Ms := 19000, t3111Ms := 2000 }

end Sys2Proof.Machine
end

