-- ==== Sys2Proof/Syntax.lean ====
section
/-! DEFINITION. The commands of the block, one constructor per row of the opcode table (R113). -/

namespace Sys2Proof

/-- A mapping record of a `CH_CONFIG` payload (R118): word 0 (`m`, `allowed`, `tag`, `downlink`, reserved bits),
word 1 (`p`), and the words of `forward`. -/
structure MapRecord where
  head    : Word
  p       : Word
  forward : List Word
deriving DecidableEq, Repr

/-- One command: the `ch` and `arg` fields of its command word (R111) as the host sent them, reserved bits
included, since a reserved bit makes the command fault (R120, R123), and its payload words (R113). -/
inductive Instr where
  /-- `NOP`, R274: no effect. -/
  | nop (ch : BitVec 8) (arg : BitVec 16)
  /-- `RESET`, R276: the reset of R411. -/
  | reset (ch : BitVec 8) (arg : BitVec 16)
  /-- `CSR_WRITE`, R270: write control register `arg`. -/
  | csrWrite (ch : BitVec 8) (arg : BitVec 16) (v : Word)
  /-- `CSR_READ`, R271: read control register `arg`. -/
  | csrRead (ch : BitVec 8) (arg : BitVec 16)
  /-- `CH_CONFIG`, R272: install a logical channel; payload of R118. -/
  | chConfig (ch : BitVec 8) (arg : BitVec 16) (w0 : Word) (tx : MapRecord) (rx : MapRecord)
  /-- `CH_DECONFIG`, R273: tear a channel down. -/
  | chDeconfig (ch : BitVec 8) (arg : BitVec 16)
  /-- `CH_STATUS`, R275: read a context's status. -/
  | chStatus (ch : BitVec 8) (arg : BitVec 16)
  /-- `LSB8MSB`, R152: octet bit reversal of an `arg`-bit vector. -/
  | lsb8msb (ch : BitVec 8) (arg : BitVec 16) (bits : List Word)
  /-- `PAR_ENCODE`, R167: parity of the block code `arg`. -/
  | parEncode (ch : BitVec 8) (arg : BitVec 16) (data : List Word)
  /-- `PAR_SYNDROME`, R168: syndrome of the block code `arg`. -/
  | parSyndrome (ch : BitVec 8) (arg : BitVec 16) (codeword : List Word)
  /-- `RACH_CHECK`, R171: RACH validity of 18 bits against a BSIC. -/
  | rachCheck (ch : BitVec 8) (arg : BitVec 16) (u : Word)
  /-- `XCCH_CODE`, R172: XCCH encoding as a pure function. -/
  | xcchCode (ch : BitVec 8) (arg : BitVec 16) (frame : List Word)
  /-- `XCCH_DECODE`, R173: XCCH decoding as a pure function. -/
  | xcchDecode (ch : BitVec 8) (arg : BitVec 16) (soft : List Word)
  /-- `SCH_CODE`, R174: SCH coding of 25 bits. -/
  | schCode (ch : BitVec 8) (arg : BitVec 16) (data : Word)
  /-- `CONV_ENCODE`, R191: convolutional encoding of `arg` bits. -/
  | convEncode (ch : BitVec 8) (arg : BitVec 16) (bits : List Word)
  /-- `VITERBI_DECODE`, R198: Viterbi decoding to `arg` bits. -/
  | viterbiDecode (ch : BitVec 8) (arg : BitVec 16) (soft : List Word)
  /-- `XCCH_INTERLEAVE`, R212: XCCH interleave. -/
  | xcchInterleave (ch : BitVec 8) (arg : BitVec 16) (coded : List Word)
  /-- `XCCH_DEINTERLEAVE`, R213: XCCH deinterleave. -/
  | xcchDeinterleave (ch : BitVec 8) (arg : BitVec 16) (rows : List Word)
  /-- `TCH_INTERLEAVE`, R216: TCH interleave at offset `arg` into given rows. -/
  | tchInterleave (ch : BitVec 8) (arg : BitVec 16) (coded : List Word) (rows : List Word)
  /-- `TCH_DEINTERLEAVE`, R217: TCH deinterleave at offset `arg`. -/
  | tchDeinterleave (ch : BitVec 8) (arg : BitVec 16) (rows : List Word)
  /-- `BURST_MAP`, R220: normal-burst mapping. -/
  | burstMap (ch : BitVec 8) (arg : BitVec 16) (row : List Word)
  /-- `BURST_UNMAP`, R221: normal-burst unmapping. -/
  | burstUnmap (ch : BitVec 8) (arg : BitVec 16) (sym : List Word)
  /-- `TCH_SPEECH_ENCODE`, R331: TCH speech coding as a pure function. -/
  | tchSpeechEncode (ch : BitVec 8) (arg : BitVec 16) (frame : List Word)
  /-- `TCH_SPEECH_DECODE`, R332: TCH speech decoding as a pure function. -/
  | tchSpeechDecode (ch : BitVec 8) (arg : BitVec 16) (soft : List Word)
  /-- `L2_DATA`, R282: primitive DATA. -/
  | l2Data (ch : BitVec 8) (arg : BitVec 16) (frame : List Word)
  /-- `L2_ESTABLISH`, R279: primitive ESTABLISH. -/
  | l2Establish (ch : BitVec 8) (arg : BitVec 16)
  /-- `L2_RELEASE`, R280: primitive RELEASE. -/
  | l2Release (ch : BitVec 8) (arg : BitVec 16)
  /-- `L2_ERROR`, R281: primitive ERROR. -/
  | l2Error (ch : BitVec 8) (arg : BitVec 16)
  /-- `RX_BURST`, R286: a received burst, payload of R119. -/
  | rxBurst (ch : BitVec 8) (arg : BitVec 16) (time : Word) (meas : Word) (sym : List Word)
  /-- `RACH_SERVICE`, R288: serve one queued RACH burst. -/
  | rachService (ch : BitVec 8) (arg : BitVec 16)
  /-- `IDLE_FILL`, R293: send idle fill. -/
  | idleFill (ch : BitVec 8) (arg : BitVec 16)
  /-- `SCH_SEND`, R291: send one SCH burst. -/
  | schSend (ch : BitVec 8) (arg : BitVec 16) (data : Word)
  /-- `FCCH_SEND`, R292: send one FCCH burst. -/
  | fcchSend (ch : BitVec 8) (arg : BitVec 16)
  /-- `TCH_SEND_SLOT`, R324: send one 4-burst traffic slot. -/
  | tchSendSlot (ch : BitVec 8) (arg : BitVec 16)
  /-- `TCH_SPEECH_PUSH`, R326: queue a speech frame. -/
  | tchSpeechPush (ch : BitVec 8) (arg : BitVec 16) (frame : List Word)
  /-- `RESYNC`, R256: resynchronise the schedule. -/
  | resync (ch : BitVec 8) (arg : BitVec 16)
  /-- `WAIT_TO_SEND`, R257: wait for the previous write time. -/
  | waitToSend (ch : BitVec 8) (arg : BitVec 16)
  /-- `PHY_READ`, R364: read the measurement ring. -/
  | phyRead (ch : BitVec 8) (arg : BitVec 16)
  /-- `FER_GOOD`, R353: count a good frame. -/
  | ferGood (ch : BitVec 8) (arg : BitVec 16)
  /-- `FER_BAD`, R354: count a bad frame. -/
  | ferBad (ch : BitVec 8) (arg : BitVec 16)
  /-- `FN_ADD`, R251: frame-number addition. -/
  | fnAdd (ch : BitVec 8) (arg : BitVec 16) (t : Word) (k : Word)
  /-- `FN_DELTA`, R252: signed frame-number difference. -/
  | fnDelta (ch : BitVec 8) (arg : BitVec 16) (a : Word) (b : Word)
  /-- `TIME_CMP`, R253: TDMA order of two times. -/
  | timeCmp (ch : BitVec 8) (arg : BitVec 16) (t1 : Word) (t2 : Word)
  /-- `MAP_REVERSE`, R254: reverse mapping. -/
  | mapReverse (ch : BitVec 8) (arg : BitVec 16) (t : Word)
  /-- `MAP_ROLL`, R255: roll a time to a mapping offset. -/
  | mapRoll (ch : BitVec 8) (arg : BitVec 16) (t : Word) (k : Word)
deriving DecidableEq, Repr

end Sys2Proof
end

