-- ==== Sys2Proof/Machine/State.lean ====
section
/-! DEFINITION. The state of the block as plain data (R30 to R56), the reasons a step can stop, and the state
right after reset (R411). -/

namespace Sys2Proof.Machine

/-! ## Times and mappings -/

/-- A TDMA time `(FN, TN)` (R14): `TN ∈ [0, 7]`, and `FN ∈ [0, H)` in every time the block holds (`Time.legal`). -/
structure Time where
  fn : Nat
  tn : BitVec 3
deriving DecidableEq, Repr

/-- A TDMA mapping (R42). `m` is the length of `forward`; a direction without a mapping is `none` in the
context. -/
structure Mapping where
  allowed  : BitVec 8
  downlink : Bool
  p        : Word
  forward  : List Word
  tag      : BitVec 8
deriving DecidableEq, Repr

/-- The kind of a context (R40). -/
inductive Kind where
  /-- code 0, unconfigured -/
  | none
  /-- code 1 -/
  | xcch
  /-- code 2 -/
  | sacch
  /-- code 3 -/
  | rach
  /-- code 4 -/
  | sch
  /-- code 5 -/
  | fcch
  /-- code 6 -/
  | tch
deriving DecidableEq, Repr

/-! ## Channel contexts -/

/-- The configuration of a context (R40, R41). -/
structure ChanConfig where
  kind    : Kind
  tn      : BitVec 3
  c0      : Bool
  arfcn   : BitVec 16
  txmap   : Option Mapping
  rxmap   : Option Mapping
  running : Bool
deriving DecidableEq, Repr

/-- The block offset of the TCH interleaver, 0 or 4 (R46). -/
inductive Offset where
  | zero
  | four
deriving DecidableEq, Repr

/-- The encoder part of a context: scheduling (R44), XCCH buffers (R45), TCH state (R46). -/
structure Encoder where
  active      : Bool
  nextWT      : Time
  prevWT      : Time
  totalBursts : BitVec 32
  eU          : BitVec 228
  eC          : BitVec 456
  eI4         : Vector (BitVec 114) 4
  tU          : BitVec 189
  tD          : BitVec 260
  eI8         : Vector (BitVec 114) 8
  offset      : Offset
  prevFACCH   : Bool
  curFACCH    : Bool
  facchQ      : List (BitVec 184)
  speechQ     : List (BitVec 260)
deriving DecidableEq, Repr

/-- A timer (R51): armed or inactive, with the millisecond it was set at and its timeout. -/
structure Timer where
  armed   : Bool
  start   : BitVec 32
  timeout : BitVec 32
deriving DecidableEq, Repr

/-- A received burst (R48): `rssi` and `te` are signed Q8.8 codes. -/
structure RxBurst where
  time : Time
  rssi : BitVec 16
  te   : BitVec 16
  sym  : Vector Soft 148
deriving DecidableEq, Repr

/-- The decoder part of a context (R49 to R54). -/
structure Decoder where
  accepting      : Bool
  fer            : BitVec 32
  dI4            : Vector (Vector Soft 114) 4
  dI8            : Vector (Vector Soft 114) 8
  dHl            : Vector Soft 8
  dHu            : Vector Soft 8
  dC             : Vector Soft 456
  dU             : BitVec 228
  dTU            : BitVec 189
  dTD            : BitVec 260
  prevGood       : BitVec 260
  t3101          : Timer
  t3109          : Timer
  t3111          : Timer
  rssi           : Vector (BitVec 16) 4
  te             : Vector (BitVec 16) 4
  phyCnt         : BitVec 2
  phyNew         : Bool
  actualMSPower  : BitVec 5
  actualMSTiming : BitVec 7
  rachQ          : List RxBurst
deriving DecidableEq, Repr

/-- A channel context (R39). -/
structure Ctx where
  cfg : ChanConfig
  enc : Encoder
  dec : Decoder
deriving DecidableEq, Repr

/-! ## Registers, agents and the whole state -/

/-- The writable control registers and the two the block itself writes (R32 to R36). The constants (`ID` and
the parameter registers) and the clock registers are read through `csrRead`. -/
structure Csr where
  /-- `FAULT`, index `0x0001` (R32) -/
  fault            : Word
  /-- `BSIC`, index `0x0002` (R33) -/
  bsic             : Word
  /-- `T3101_MS`, index `0x0003` (R34) -/
  t3101Ms          : Word
  /-- `T3109_MS`, index `0x0004` (R34) -/
  t3109Ms          : Word
  /-- `T3111_MS`, index `0x0005` (R34) -/
  t3111Ms          : Word
  /-- `MAX_SPEECH_LATENCY`, index `0x0006` (R35) -/
  maxSpeechLatency : Word
  /-- `RACH_DROPS`, index `0x000B` (R36) -/
  rachDrops        : Word
deriving DecidableEq, Repr

/-- A command that holds (R392): the command, and the time `t0` sampled when it started. -/
structure Held where
  instr : Instr
  t0    : Time
deriving DecidableEq, Repr

/-- A turn of one of the agents of R391. The spec gives no order between the agents, so the state carries it as
data (log entry 2). -/
inductive Turn where
  /-- The command processor takes a turn. -/
  | processor
  /-- The environment replaces `NOW_TIME` by `time` and adds `ms` to `NOW_MS` (R43). -/
  | clock (time : Time) (ms : Word)
  /-- The environment asserts the reset input `RST` (R410). -/
  | rst
  /-- The host puts words on the command port (R82). -/
  | issue (words : List Word)
deriving DecidableEq, Repr

/-- The state (R30). -/
structure State where
  /-- The control registers. -/
  csr     : Csr
  /-- The channel contexts (R39), `NUM_CTX` of them: context `c` is entry `c`. -/
  ctx     : List Ctx
  /-- The TDMA clock input (R43). -/
  nowTime : Time
  /-- The millisecond clock input (R43). -/
  nowMs   : Word
  /-- The TX port: the records appended so far, oldest first (R84, R125). -/
  tx      : List (List Word)
  /-- The UP port: the records appended so far, oldest first (R84, R126). -/
  up      : List (List Word)
  /-- The command port, inwards: the words the host has put there and the block has not consumed (R80, R82). -/
  cmd     : List Word
  /-- The command port, outwards: for each completed command its status word and response words, oldest first
  (R82, R112). -/
  answers : List (List Word)
  /-- The held command, if one holds (R392). -/
  held    : Option Held
  /-- The MODEL's own field: which agent moves next. When it is empty the command processor does. -/
  sched   : List Turn
deriving DecidableEq, Repr

/-! ## Why a step can stop -/

/-- Faults of the model. The block's own faults (R381) are no stops: a command that faults has a next state, with
`FAULT` written and a fault status answered. -/
inductive Fault where
  /-- Raised by an environment turn that breaks the clock contract of R43 and R417: it moves `NOW_TIME` backwards in
  TDMA order, or forward by half a hyperframe or more, or presents a frame number that is none (R14). The spec says
  it must never happen and gives it no effect. Safe: the model stops where a real block would go on. -/
  | clockContract
deriving DecidableEq, Repr

/-- Refusals of the model. -/
inductive Refusal where
  /-- Raised by `exec` for an instruction without a meaning. No arm raises it: every row of the table is modelled.
  Safe. -/
  | notModelled (mnemonic : String)
deriving DecidableEq, Repr

/-! ## Reset values -/

/-- A time of R14: its frame number is below `H`. -/
def Time.legal (P : Config.Params) (t : Time) : Bool := decide (t.fn < P.hyperframe)

/-- The time `(0, 0)`. -/
def Time.zero : Time := ⟨0, 0⟩

/-- The configuration part of the reset context (R411). -/
def ChanConfig.reset : ChanConfig :=
  { kind := .none, tn := 0, c0 := false, arfcn := 0, txmap := none, rxmap := none, running := false }

/-- The encoder part of the reset context (R411). -/
def Encoder.reset : Encoder :=
  { active := false, nextWT := .zero, prevWT := .zero, totalBursts := 0
    eU := 0, eC := 0, eI4 := Vector.replicate 4 0, tU := 0, tD := 0, eI8 := Vector.replicate 8 0
    offset := .zero, prevFACCH := false, curFACCH := false, facchQ := [], speechQ := [] }

/-- The reset value of a timer (R51). -/
def Timer.reset : Timer := { armed := false, start := 0, timeout := 0 }

/-- The decoder part of the reset context (R411): soft cells at the erasure, everything else 0 or empty. -/
def Decoder.reset : Decoder :=
  { accepting := false, fer := 0
    dI4 := Vector.replicate 4 (Vector.replicate 114 erasure)
    dI8 := Vector.replicate 8 (Vector.replicate 114 erasure)
    dHl := Vector.replicate 8 erasure, dHu := Vector.replicate 8 erasure
    dC := Vector.replicate 456 erasure
    dU := 0, dTU := 0, dTD := 0, prevGood := 0
    t3101 := .reset, t3109 := .reset, t3111 := .reset
    rssi := Vector.replicate 4 0, te := Vector.replicate 4 0, phyCnt := 0, phyNew := false
    actualMSPower := 0, actualMSTiming := 0, rachQ := [] }

/-- The reset context (R411). -/
def Ctx.reset : Ctx := { cfg := .reset, enc := .reset, dec := .reset }

/-- The control registers after reset (R411); the reset values of the timeouts are parameters (R6). -/
def Csr.reset (P : Config.Params) : Csr :=
  { fault := 0, bsic := 0, t3101Ms := P.t3101Ms, t3109Ms := P.t3109Ms, t3111Ms := P.t3111Ms
    maxSpeechLatency := 0, rachDrops := 0 }

/-- Every context after reset (R411). -/
def Ctx.allReset (P : Config.Params) : List Ctx := List.replicate P.numCtx .reset

/-- A block with parameters `P` right after reset (R411): no context configured, nothing on the ports. The clock inputs have
no reset value in the spec (R43, I13): log entry 1 names the ones taken here. -/
def State.resetFor (P : Config.Params) : State :=
  { csr := .reset P, ctx := Ctx.allReset P, nowTime := .zero, nowMs := 0
    tx := [], up := [], cmd := [], answers := [], held := none, sched := [] }

/-- This spec's hardware (R6) right after reset. -/
def State.reset : State := State.resetFor hardware

end Sys2Proof.Machine
end

