-- ==== Sys2Proof/Machine/Tdma.lean ====
section
/-! DEFINITION. TDMA time arithmetic and mappings (R240 to R246). -/

namespace Sys2Proof.Machine

open Config (Params)

variable (P : Params)

/-- The frame number an integer stands for, modulo the hyperframe (R10, R240). -/
def fnOfInt (i : Int) : Nat := (i % P.hyperframe).toNat

/-- `fnAdd(FN, k)` (R240). -/
def fnAdd (fn : Nat) (k : Int) : Nat := fnOfInt P (fn + k)

/-- `FNDelta(a, b)` (R241), the representative of `a - b` in `[-H/2, H/2)`. -/
def fnDelta (a b : Nat) : Int :=
  (a - b + (P.hyperframe / 2 : Nat) : Int) % P.hyperframe - (P.hyperframe / 2 : Nat)

/-- `cmp(t1, t2)` (R242). -/
def timeCmp (t1 t2 : Time) : Int :=
  if fnDelta P t1.fn t2.fn ≠ 0 then (fnDelta P t1.fn t2.fn).sign else (t1.tn.toNat - t2.tn.toNat : Int).sign

/-- `numFrames m` of a mapping (R42). -/
def Mapping.m (M : Mapping) : Nat := M.forward.length

/-- `frameMapping(k) = forward[k mod m]` (R243). -/
def frameMapping (M : Mapping) (k : Nat) : Nat := (M.forward.getD (k % M.m) 0).toNat

/-- `rollTo((FN, TN), target, p)` (R243): the least `d ≥ 0` frames forward to the offset `target` of the period. -/
def rollTo (t : Time) (target p : Nat) : Time :=
  ⟨fnAdd P t.fn ((target - t.fn : Int) % p), t.tn⟩

/-- `reverse(M, FN)` (R245): the index of `FN mod p` in `forward`, or -1. -/
def reverse (M : Mapping) (fn : Nat) : Int :=
  match M.forward.findIdx? (fun w => w.toNat == fn % M.p.toNat) with
  | some i => i
  | none => -1

/-- A list of words is strictly increasing (R244 condition 3). -/
def strictlyIncreasing : List Word → Bool
  | [] => true
  | [_] => true
  | a :: b :: ws => decide (a.toNat < b.toNat) && strictlyIncreasing (b :: ws)

/-- The number that `m` must be a multiple of (R244 condition 4). -/
def blockBursts : Kind → Nat
  | .xcch | .sacch => 4
  | .tch => 8
  | _ => 1

/-- Conditions 1 to 6 of R244 for the mapping of one direction of a context. -/
def mappingWf (kind : Kind) (tn : BitVec 3) (downlink : Bool) (M : Mapping) : Bool :=
  decide (2 ≤ M.m) && decide (M.m ≤ P.maxM)
    && decide (1 ≤ M.p.toNat) && decide (P.hyperframe % M.p.toNat = 0)
    && strictlyIncreasing M.forward && decide ((M.forward.getLastD 0).toNat < M.p.toNat)
    && decide (M.m % blockBursts kind = 0)
    && M.downlink == downlink
    && M.allowed.getLsbD tn.toNat

/-- Condition 7 of R244: which mappings a kind has. -/
def mappingPresence (kind : Kind) (tx rx : Bool) : Bool :=
  match kind with
  | .none => false
  | .xcch | .sacch => tx
  | .rach => !tx && rx
  | .sch | .fcch => tx && !rx
  | .tch => tx && rx

/-- R244 for the two mappings of a context. -/
def mappingsWf (kind : Kind) (tn : BitVec 3) (tx rx : Option Mapping) : Bool :=
  mappingPresence kind tx.isSome rx.isSome
    && tx.all (mappingWf P kind tn true) && rx.all (mappingWf P kind tn false)

/-- The offset as a number (R46). -/
def Offset.toNat : Offset → Nat
  | .zero => 0
  | .four => 4

/-- `4 - offset` (R324). -/
def Offset.toggle : Offset → Offset
  | .zero => .four
  | .four => .zero

end Sys2Proof.Machine
end

