-- ==== Sys2Proof/Machine/Coding.lean ====
section
/-! DEFINITION. The datapath: block codes (R160 to R170), the convolutional code and the Viterbi decoder (R190 to
R196), the interleavers and the burst mapper (R210 to R224), TCH speech coding (R320, R321, R334). -/

namespace Sys2Proof.Machine

open Config (Params)

variable (P : Params)

/-! ## Block codes -/

/-- One data bit through the parity register (R160). -/
def remainderStep {r : Nat} (g reg : BitVec r) (d : Bool) : BitVec r :=
  if xor reg.msb d then (reg <<< 1) ^^^ g else reg <<< 1

/-- `remainder(g, r, D)` (R160); `g` is the generator without its leading term. -/
def remainder {r k : Nat} (g : BitVec r) (d : BitVec k) : BitVec r := (bitList d).foldl (remainderStep g) 0#r

/-- One received bit through the syndrome register (R161). -/
def syndromeStep {r : Nat} (g reg : BitVec r) (d : Bool) : BitVec r :=
  if reg.msb then ((reg <<< 1) ||| (BitVec.ofBool d).setWidth r) ^^^ g else (reg <<< 1) ||| (BitVec.ofBool d).setWidth r

/-- `syndrome(g, r, DP)` (R161). -/
def syndrome {r n : Nat} (g : BitVec r) (dp : BitVec n) : BitVec r := (bitList dp).foldl (syndromeStep g) 0#r

/-- A block code (R162): parity length, data length, generator without its leading term. -/
structure BlockCode where
  r : Nat
  k : Nat
  g : BitVec r

/-- The code that a code id selects (R129, R162). -/
def blockCode (id : BitVec 16) : Option BlockCode :=
  match id.toNat with
  | 0 => some ⟨40, 184, P.gFire⟩
  | 1 => some ⟨10, 25, P.gSch⟩
  | 2 => some ⟨6, 8, P.gRach⟩
  | 3 => some ⟨3, 50, P.gTch⟩
  | _ => none

/-- The SCH uncoded block `S ‖ P_SCH ‖ 0^4` (R165). -/
def schUncoded (s : BitVec 25) : BitVec 39 := (s ++ ~~~remainder P.gSch s) ++ 0#4

/-- The tail test of R170. -/
def rachTailOK (u : BitVec 18) : Bool := slice u 14 4 == 0#4

/-- The parity test of R170 against a BSIC. -/
def rachParityOK (u : BitVec 18) (bsic : BitVec 6) : Bool :=
  ((~~~slice u 8 6) ^^^ remainder P.gRach (slice u 0 8)) == bsic

/-- `RA` of a decoded RACH burst (R171, R289): the LSB8MSB rewrite of `U[0..8)`. -/
def rachRA (u : BitVec 18) : BitVec 8 := lsb8msb (slice u 0 8)

/-! ## Interleavers -/

/-- `j(k)`, the in-row position shared by both interleavers. -/
def inRow (k : Nat) : Nat := 2 * ((49 * k) % 57) + (k % 8) / 4

/-- Write the coded bits into `R` rows: `I[(k + off) mod R][j(k)] <- C[k]` for every `k` (R210 with `R = 4` and offset
0, R214 with `R = 8`). Cells not named keep their bits. -/
def interleave {R : Nat} [NeZero R] (off : Nat) (c : BitVec 456) (rows : Vector (BitVec 114) R) :
    Vector (BitVec 114) R :=
  (List.range 456).foldl
    (fun I k => I.set ((k + off) % R) (setBit (I[(k + off) % R]'(Nat.mod_lt _ (NeZero.pos R))) (inRow k) (c.getMsbD k))
      (Nat.mod_lt _ (NeZero.pos R)))
    rows

/-- The XCCH interleave of `C` (R210). -/
def xcchInterleave (c : BitVec 456) : Vector (BitVec 114) 4 := interleave 0 c (Vector.replicate 4 0#114)

/-- Cell `(r, j)` of soft rows. -/
def cell {R : Nat} (rows : Vector (Vector Soft 114) R) (r j : Nat) : Soft :=
  ((rows[r]?).getD (Vector.replicate 114 erasure)).getD j erasure

/-- The soft coded bits read from `R` rows: `C[k] <- I[(k + off) mod R][j(k)]` (R211, R215). No two `k` read one cell, so
the erasure of a cell is not seen by a later `k`. -/
def deinterleave {R : Nat} (off : Nat) (rows : Vector (Vector Soft 114) R) : Vector Soft 456 :=
  vecOf 456 fun k => cell rows ((k + off) % R) (inRow k)

/-- The rows after a deinterleave: every consumed cell is the erasure (R211, R215). -/
def eraseConsumed {R : Nat} [NeZero R] (off : Nat) (rows : Vector (Vector Soft 114) R) : Vector (Vector Soft 114) R :=
  (List.range 456).foldl
    (fun I k => I.set ((k + off) % R)
      ((I[(k + off) % R]'(Nat.mod_lt _ (NeZero.pos R))).setIfInBounds (inRow k) erasure) (Nat.mod_lt _ (NeZero.pos R)))
    rows

/-! ## Burst mapper -/

/-- The normal burst of a row (R218). -/
def normalBurst (row : BitVec 114) (hl hu : Bool) (tsc : BitVec 3) : BitVec 148 :=
  (((((0#3 ++ slice row 0 57) ++ BitVec.ofBool hl) ++ P.tsc tsc) ++ BitVec.ofBool hu) ++ slice row 57 57) ++ 0#3

/-- The row of a received normal burst (R219). -/
def burstRow (sym : Vector Soft 148) : Vector Soft 114 :=
  vecOf 114 fun i => if i < 57 then sym.getD (3 + i) 0 else sym.getD (88 + (i - 57)) 0

/-- `Hl` of a received normal burst (R219). -/
def burstHl (sym : Vector Soft 148) : Soft := sym.getD 60 0

/-- `Hu` of a received normal burst (R219). -/
def burstHu (sym : Vector Soft 148) : Soft := sym.getD 87 0

/-- The FCCH burst (R222). -/
def fcchBurst : BitVec 148 := 0#148

/-- The SCH burst of 78 coded bits (R223). -/
def schBurst (c : BitVec 78) : BitVec 148 :=
  (((0#3 ++ slice c 0 39) ++ P.schTrain) ++ slice c 39 39) ++ 0#3

/-- The 36 soft symbols of a RACH burst, from burst offset 49 (R289). -/
def rachSymbols (sym : Vector Soft 148) : Vector Soft 36 := vecOf 36 fun i => sym.getD (49 + i) 0

/-! ## XCCH coding -/

/-- Steps 1 to 4 of the XCCH encoding pipeline, on the buffer `eU` (R172, R283): the frame, the LSB8MSB rewrite of `D`, the
inverted parity written through the view `P`. The tail keeps its bits. -/
def xcchFill (eU : BitVec 228) (f : BitVec 184) : BitVec 228 :=
  let u1 := writeView eU 0 f
  let u2 := writeView u1 0 (lsb8msb (slice u1 0 184))
  writeView u2 184 (~~~remainder P.gFire (slice u2 0 184))

/-- The parity of a received block inverted in place (R164). -/
def invertParity (u : BitVec 228) : BitVec 228 := writeView u 184 (~~~slice u 184 40)

/-- The validity test of an XCCH block whose parity has been inverted (R164). -/
def xcchValid (u : BitVec 228) : Bool := syndrome P.gFire (slice u 0 224) == 0#40

/-- The LSB8MSB undo of `D` (R285). -/
def undoD (u : BitVec 228) : BitVec 228 := writeView u 0 (lsb8msb (slice u 0 184))

/-! ## TCH coding -/

/-- Element `i < 260` of the permutation `TCH_ORDER`. -/
def tchOrder (i : Nat) : Nat := (P.tchOrder (Fin.ofNat 260 i)).val

/-- The inverse of `TCH_ORDER`. -/
def tchOrderInv (j : Nat) : Nat := (P.tchOrder.symm (Fin.ofNat 260 j)).val

/-- `TCHD` of a speech frame (R320): `tD[i] = s[TCH_ORDER[i]]`. -/
def tchReorder (s : BitVec 260) : BitVec 260 := bitsOf 260 fun i => s.getMsbD (tchOrder P i)

/-- The inverse of `tchReorder` (R321): `s[TCH_ORDER[i]] = dTD[i]`. -/
def tchUnorder (d : BitVec 260) : BitVec 260 := bitsOf 260 fun j => d.getMsbD (tchOrderInv P j)

/-- The sent class-1A parity of `TCHD` (R166). -/
def tchParity (d : BitVec 260) : BitVec 3 := ~~~remainder P.gTch (slice d 0 50)

/-- `TCHU` of `TCHD` (R320): the fold, the parity at 91, the zero tail. -/
def tchFold (d : BitVec 260) : BitVec 189 :=
  bitsOf 189 fun i =>
    if i < 91 then d.getMsbD (2 * i)
    else if i < 94 then (tchParity P d).getMsbD (i - 91)
    else if i < 185 then d.getMsbD (2 * (184 - i) + 1)
    else false

/-- The coded block of `TCHU` and `TCHD` (R320): class 1 coded, class 2 copied. -/
def tchCoded (u : BitVec 189) (d : BitVec 260) : BitVec 456 :=
  (convEncode u ++ slice d 182 78 : BitVec (2 * 189 + 78))

/-- `tchEncode(s)` (R320) as a function: the coded block. -/
def tchEncode (s : BitVec 260) : BitVec 456 := tchCoded (tchFold P (tchReorder P s)) (tchReorder P s)

/-- What `tchDecode` answers (R321), with the buffers it fills. -/
structure TchDecoded where
  dTU      : BitVec 189
  dTD      : BitVec 260
  parityOK : Bool
  tailOK   : Bool
  s        : BitVec 260
deriving DecidableEq, Repr

/-- `good` of `tchDecode` (R321). -/
def TchDecoded.good (t : TchDecoded) : Bool := t.parityOK && t.tailOK

/-- `TCHD` of the decoded `TCHU` and the soft class-2 symbols (R321). -/
def tchUnfold (u : BitVec 189) (q : Vector Soft 456) : BitVec 260 :=
  bitsOf 260 fun i =>
    if i < 182 then (if i % 2 = 0 then u.getMsbD (i / 2) else u.getMsbD (184 - i / 2))
    else hard (q.getD (378 + (i - 182)) 0)

/-- `tchDecode(q)` (R321). -/
def tchDecode (q : Vector Soft 456) : TchDecoded :=
  let u := P.vd 189 (vecOf 378 fun i => q.getD i 0)
  let d := tchUnfold u q
  { dTU := u, dTD := d
    parityOK := slice u 91 3 == tchParity P d
    tailOK := slice u 185 4 == 0#4
    s := tchUnorder P d }

end Sys2Proof.Machine
end

