-- ==== Sys2Proof/Machine/Lengths.lean ====
section
/-! DEFINITION. Payload lengths: how many words the vectors of R113 take. -/

namespace Sys2Proof.Machine

/-- `⌈n/32⌉`, the words of a bit vector of `n` bits (R114). -/
def bitWords (n : Nat) : Nat := (n + 31) / 32

/-- `⌈n/4⌉`, the words of a soft vector of `n` symbols (R115). -/
def softWords (n : Nat) : Nat := (n + 3) / 4

/-- `k` of the block code that code id `id` selects (R129, R162). A code id above 3 selects no code: such a
command carries no data words (log entry 6). -/
def codeDataBits (id : BitVec 16) : Nat :=
  match id.toNat with
  | 0 => 184
  | 1 => 25
  | 2 => 8
  | 3 => 50
  | _ => 0

/-- `k + r` of the block code that code id `id` selects (R129, R162); 0 above 3 (log entry 6). -/
def codewordBits (id : BitVec 16) : Nat :=
  match id.toNat with
  | 0 => 224
  | 1 => 35
  | 2 => 14
  | 3 => 53
  | _ => 0

/-- `m` of a mapping record, bits 31:24 of its word 0 (R118). -/
def recordM (head : Word) : Nat := (head.extractLsb' 24 8).toNat

end Sys2Proof.Machine
end

