-- ==== Sys2Proof/WellFormed.lean ====
section
/-! DEFINITION. Which terms of `Instr` stand for a command the host can send: those whose payload lists have
exactly the lengths R113 and R118 fix. Every value of `ch` and `arg` is one the host can send. -/

namespace Sys2Proof

open Machine

/-- A mapping record has as many `forward` words as its `m` field says (R118). -/
def MapRecord.wf (r : MapRecord) : Bool := r.forward.length == recordM r.head

/-- The payload has the length R113 fixes for the opcode. -/
def Instr.wf : Instr → Bool
  | .nop _ _ => true
  | .reset _ _ => true
  | .csrWrite _ _ _ => true
  | .csrRead _ _ => true
  | .chConfig _ _ _ tx rx => tx.wf && rx.wf
  | .chDeconfig _ _ => true
  | .chStatus _ _ => true
  | .lsb8msb _ arg bits => bits.length == bitWords arg.toNat
  | .parEncode _ arg data => data.length == bitWords (codeDataBits arg)
  | .parSyndrome _ arg codeword => codeword.length == bitWords (codewordBits arg)
  | .rachCheck _ _ _ => true
  | .xcchCode _ _ frame => frame.length == 6
  | .xcchDecode _ _ soft => soft.length == 114
  | .schCode _ _ _ => true
  | .convEncode _ arg bits => bits.length == bitWords arg.toNat
  | .viterbiDecode _ arg soft => soft.length == softWords (2 * arg.toNat)
  | .xcchInterleave _ _ coded => coded.length == 15
  | .xcchDeinterleave _ _ rows => rows.length == 116
  | .tchInterleave _ _ coded rows => coded.length == 15 && rows.length == 32
  | .tchDeinterleave _ _ rows => rows.length == 232
  | .burstMap _ _ row => row.length == 4
  | .burstUnmap _ _ sym => sym.length == 37
  | .tchSpeechEncode _ _ frame => frame.length == 9
  | .tchSpeechDecode _ _ soft => soft.length == 114
  | .l2Data _ _ frame => frame.length == 6
  | .l2Establish _ _ => true
  | .l2Release _ _ => true
  | .l2Error _ _ => true
  | .rxBurst _ _ _ _ sym => sym.length == 37
  | .rachService _ _ => true
  | .idleFill _ _ => true
  | .schSend _ _ _ => true
  | .fcchSend _ _ => true
  | .tchSendSlot _ _ => true
  | .tchSpeechPush _ _ frame => frame.length == 9
  | .resync _ _ => true
  | .waitToSend _ _ => true
  | .phyRead _ _ => true
  | .ferGood _ _ => true
  | .ferBad _ _ => true
  | .fnAdd _ _ _ _ => true
  | .fnDelta _ _ _ _ => true
  | .timeCmp _ _ _ _ => true
  | .mapReverse _ _ _ => true
  | .mapRoll _ _ _ _ => true

end Sys2Proof
end

