-- ==== Sys2Proof/Decode.lean ====
section
/-! DEFINITION. The command decoder (R110 to R124), total on any words of the command port, and the encoder,
written from the same table. -/

namespace Sys2Proof

open Machine

/-! ## Opcodes -/

/-- The assigned operation codes (R121: exactly the rows of R113). -/
inductive Opcode where
  | nop
  | reset
  | csrWrite
  | csrRead
  | chConfig
  | chDeconfig
  | chStatus
  | lsb8msb
  | parEncode
  | parSyndrome
  | rachCheck
  | xcchCode
  | xcchDecode
  | schCode
  | convEncode
  | viterbiDecode
  | xcchInterleave
  | xcchDeinterleave
  | tchInterleave
  | tchDeinterleave
  | burstMap
  | burstUnmap
  | tchSpeechEncode
  | tchSpeechDecode
  | l2Data
  | l2Establish
  | l2Release
  | l2Error
  | rxBurst
  | rachService
  | idleFill
  | schSend
  | fcchSend
  | tchSendSlot
  | tchSpeechPush
  | resync
  | waitToSend
  | phyRead
  | ferGood
  | ferBad
  | fnAdd
  | fnDelta
  | timeCmp
  | mapReverse
  | mapRoll
deriving DecidableEq, Repr

/-- The `opc` code of each operation (R113). -/
def Opcode.code : Opcode → BitVec 8
  | .nop => 0x00#8
  | .reset => 0x01#8
  | .csrWrite => 0x02#8
  | .csrRead => 0x03#8
  | .chConfig => 0x04#8
  | .chDeconfig => 0x05#8
  | .chStatus => 0x06#8
  | .lsb8msb => 0x10#8
  | .parEncode => 0x20#8
  | .parSyndrome => 0x21#8
  | .rachCheck => 0x22#8
  | .xcchCode => 0x23#8
  | .xcchDecode => 0x24#8
  | .schCode => 0x25#8
  | .convEncode => 0x30#8
  | .viterbiDecode => 0x31#8
  | .xcchInterleave => 0x32#8
  | .xcchDeinterleave => 0x33#8
  | .tchInterleave => 0x34#8
  | .tchDeinterleave => 0x35#8
  | .burstMap => 0x36#8
  | .burstUnmap => 0x37#8
  | .tchSpeechEncode => 0x38#8
  | .tchSpeechDecode => 0x39#8
  | .l2Data => 0x40#8
  | .l2Establish => 0x41#8
  | .l2Release => 0x42#8
  | .l2Error => 0x43#8
  | .rxBurst => 0x50#8
  | .rachService => 0x51#8
  | .idleFill => 0x60#8
  | .schSend => 0x61#8
  | .fcchSend => 0x62#8
  | .tchSendSlot => 0x63#8
  | .tchSpeechPush => 0x64#8
  | .resync => 0x65#8
  | .waitToSend => 0x66#8
  | .phyRead => 0x70#8
  | .ferGood => 0x71#8
  | .ferBad => 0x72#8
  | .fnAdd => 0x80#8
  | .fnDelta => 0x81#8
  | .timeCmp => 0x82#8
  | .mapReverse => 0x83#8
  | .mapRoll => 0x84#8

/-- Every assigned operation, in the order of R113. -/
def Opcode.all : List Opcode :=
  [.nop, .reset, .csrWrite, .csrRead, .chConfig, .chDeconfig,
   .chStatus, .lsb8msb, .parEncode, .parSyndrome, .rachCheck, .xcchCode,
   .xcchDecode, .schCode, .convEncode, .viterbiDecode, .xcchInterleave, .xcchDeinterleave,
   .tchInterleave, .tchDeinterleave, .burstMap, .burstUnmap, .tchSpeechEncode, .tchSpeechDecode,
   .l2Data, .l2Establish, .l2Release, .l2Error, .rxBurst, .rachService,
   .idleFill, .schSend, .fcchSend, .tchSendSlot, .tchSpeechPush, .resync,
   .waitToSend, .phyRead, .ferGood, .ferBad, .fnAdd, .fnDelta,
   .timeCmp, .mapReverse, .mapRoll]

/-- The operation an `opc` field selects, if it is assigned (R121). -/
def Opcode.ofCode (c : BitVec 8) : Option Opcode := Opcode.all.find? fun o => o.code == c

/-- The operation of a command. -/
def Instr.opcode : Instr → Opcode
  | .nop _ _ => .nop
  | .reset _ _ => .reset
  | .csrWrite _ _ _ => .csrWrite
  | .csrRead _ _ => .csrRead
  | .chConfig _ _ _ _ _ => .chConfig
  | .chDeconfig _ _ => .chDeconfig
  | .chStatus _ _ => .chStatus
  | .lsb8msb _ _ _ => .lsb8msb
  | .parEncode _ _ _ => .parEncode
  | .parSyndrome _ _ _ => .parSyndrome
  | .rachCheck _ _ _ => .rachCheck
  | .xcchCode _ _ _ => .xcchCode
  | .xcchDecode _ _ _ => .xcchDecode
  | .schCode _ _ _ => .schCode
  | .convEncode _ _ _ => .convEncode
  | .viterbiDecode _ _ _ => .viterbiDecode
  | .xcchInterleave _ _ _ => .xcchInterleave
  | .xcchDeinterleave _ _ _ => .xcchDeinterleave
  | .tchInterleave _ _ _ _ => .tchInterleave
  | .tchDeinterleave _ _ _ => .tchDeinterleave
  | .burstMap _ _ _ => .burstMap
  | .burstUnmap _ _ _ => .burstUnmap
  | .tchSpeechEncode _ _ _ => .tchSpeechEncode
  | .tchSpeechDecode _ _ _ => .tchSpeechDecode
  | .l2Data _ _ _ => .l2Data
  | .l2Establish _ _ => .l2Establish
  | .l2Release _ _ => .l2Release
  | .l2Error _ _ => .l2Error
  | .rxBurst _ _ _ _ _ => .rxBurst
  | .rachService _ _ => .rachService
  | .idleFill _ _ => .idleFill
  | .schSend _ _ _ => .schSend
  | .fcchSend _ _ => .fcchSend
  | .tchSendSlot _ _ => .tchSendSlot
  | .tchSpeechPush _ _ _ => .tchSpeechPush
  | .resync _ _ => .resync
  | .waitToSend _ _ => .waitToSend
  | .phyRead _ _ => .phyRead
  | .ferGood _ _ => .ferGood
  | .ferBad _ _ => .ferBad
  | .fnAdd _ _ _ _ => .fnAdd
  | .fnDelta _ _ _ _ => .fnDelta
  | .timeCmp _ _ _ _ => .timeCmp
  | .mapReverse _ _ _ => .mapReverse
  | .mapRoll _ _ _ _ => .mapRoll

/-- The `ch` field of a command (R111). -/
def Instr.ch : Instr → BitVec 8
  | .nop ch _ => ch
  | .reset ch _ => ch
  | .csrWrite ch _ _ => ch
  | .csrRead ch _ => ch
  | .chConfig ch _ _ _ _ => ch
  | .chDeconfig ch _ => ch
  | .chStatus ch _ => ch
  | .lsb8msb ch _ _ => ch
  | .parEncode ch _ _ => ch
  | .parSyndrome ch _ _ => ch
  | .rachCheck ch _ _ => ch
  | .xcchCode ch _ _ => ch
  | .xcchDecode ch _ _ => ch
  | .schCode ch _ _ => ch
  | .convEncode ch _ _ => ch
  | .viterbiDecode ch _ _ => ch
  | .xcchInterleave ch _ _ => ch
  | .xcchDeinterleave ch _ _ => ch
  | .tchInterleave ch _ _ _ => ch
  | .tchDeinterleave ch _ _ => ch
  | .burstMap ch _ _ => ch
  | .burstUnmap ch _ _ => ch
  | .tchSpeechEncode ch _ _ => ch
  | .tchSpeechDecode ch _ _ => ch
  | .l2Data ch _ _ => ch
  | .l2Establish ch _ => ch
  | .l2Release ch _ => ch
  | .l2Error ch _ => ch
  | .rxBurst ch _ _ _ _ => ch
  | .rachService ch _ => ch
  | .idleFill ch _ => ch
  | .schSend ch _ _ => ch
  | .fcchSend ch _ => ch
  | .tchSendSlot ch _ => ch
  | .tchSpeechPush ch _ _ => ch
  | .resync ch _ => ch
  | .waitToSend ch _ => ch
  | .phyRead ch _ => ch
  | .ferGood ch _ => ch
  | .ferBad ch _ => ch
  | .fnAdd ch _ _ _ => ch
  | .fnDelta ch _ _ _ => ch
  | .timeCmp ch _ _ _ => ch
  | .mapReverse ch _ _ => ch
  | .mapRoll ch _ _ _ => ch

/-- The `arg` field of a command (R111). -/
def Instr.arg : Instr → BitVec 16
  | .nop _ arg => arg
  | .reset _ arg => arg
  | .csrWrite _ arg _ => arg
  | .csrRead _ arg => arg
  | .chConfig _ arg _ _ _ => arg
  | .chDeconfig _ arg => arg
  | .chStatus _ arg => arg
  | .lsb8msb _ arg _ => arg
  | .parEncode _ arg _ => arg
  | .parSyndrome _ arg _ => arg
  | .rachCheck _ arg _ => arg
  | .xcchCode _ arg _ => arg
  | .xcchDecode _ arg _ => arg
  | .schCode _ arg _ => arg
  | .convEncode _ arg _ => arg
  | .viterbiDecode _ arg _ => arg
  | .xcchInterleave _ arg _ => arg
  | .xcchDeinterleave _ arg _ => arg
  | .tchInterleave _ arg _ _ => arg
  | .tchDeinterleave _ arg _ => arg
  | .burstMap _ arg _ => arg
  | .burstUnmap _ arg _ => arg
  | .tchSpeechEncode _ arg _ => arg
  | .tchSpeechDecode _ arg _ => arg
  | .l2Data _ arg _ => arg
  | .l2Establish _ arg => arg
  | .l2Release _ arg => arg
  | .l2Error _ arg => arg
  | .rxBurst _ arg _ _ _ => arg
  | .rachService _ arg => arg
  | .idleFill _ arg => arg
  | .schSend _ arg _ => arg
  | .fcchSend _ arg => arg
  | .tchSendSlot _ arg => arg
  | .tchSpeechPush _ arg _ => arg
  | .resync _ arg => arg
  | .waitToSend _ arg => arg
  | .phyRead _ arg => arg
  | .ferGood _ arg => arg
  | .ferBad _ arg => arg
  | .fnAdd _ arg _ _ => arg
  | .fnDelta _ arg _ _ => arg
  | .timeCmp _ arg _ _ => arg
  | .mapReverse _ arg _ => arg
  | .mapRoll _ arg _ _ => arg

/-! ## Command words -/

/-- The command word of R111: `opc` in bits 31:24, `ch` in 23:16, `arg` in 15:0. -/
def commandWord (opc : BitVec 8) (ch : BitVec 8) (arg : BitVec 16) : Word := (opc ++ ch) ++ arg

/-- The `opc` field of a command word (R111). -/
def opcField (w : Word) : BitVec 8 := w.extractLsb' 24 8

/-- The `ch` field of a command word (R111). -/
def chField (w : Word) : BitVec 8 := w.extractLsb' 16 8

/-- The `arg` field of a command word (R111). -/
def argField (w : Word) : BitVec 16 := w.extractLsb' 0 16

/-! ## The decoder -/

/-- What the head of the command stream is. -/
inductive Decoded where
  /-- A command with all its payload words; the words after it. -/
  | instr (i : Instr) (rest : List Word)
  /-- A command word with a reserved primitive kind, `0x44` to `0x4F` (R122, R284). -/
  | illegalPrimitive (w : Word) (rest : List Word)
  /-- A command word with any other unassigned `opc` (R122). -/
  | illegalOpcode (w : Word) (rest : List Word)
  /-- Not all words of a command have been presented yet. -/
  | incomplete
deriving DecidableEq, Repr

/-- The first `n` words and the words after them, if there are that many. -/
def takeWords : Nat → List Word → Option (List Word × List Word)
  | 0, ws => some ([], ws)
  | _ + 1, [] => none
  | n + 1, w :: ws =>
    match takeWords n ws with
    | some (got, rest) => some (w :: got, rest)
    | none => none

/-- Read one payload word. -/
def withWord (ws : List Word) (k : Word → List Word → Decoded) : Decoded :=
  match ws with
  | [] => .incomplete
  | w :: rest => k w rest

/-- Read `n` payload words. -/
def withWords (n : Nat) (ws : List Word) (k : List Word → List Word → Decoded) : Decoded :=
  match takeWords n ws with
  | some (got, rest) => k got rest
  | none => .incomplete

/-- Read a mapping record: its word 0 gives its `m` (R118, R124). -/
def withRecord (ws : List Word) (k : MapRecord → List Word → Decoded) : Decoded :=
  withWord ws fun head ws => withWord ws fun p ws =>
    withWords (recordM head) ws fun forward ws => k ⟨head, p, forward⟩ ws

/-- Read the payload of a command whose operation is assigned (R113, R124). -/
def decodeOp (o : Opcode) (ch : BitVec 8) (arg : BitVec 16) (ws : List Word) : Decoded :=
  match o with
  | .nop => .instr (.nop ch arg) ws
  | .reset => .instr (.reset ch arg) ws
  | .csrWrite => withWord ws fun v ws => .instr (.csrWrite ch arg v) ws
  | .csrRead => .instr (.csrRead ch arg) ws
  | .chConfig => withWord ws fun w0 ws => withRecord ws fun tx ws => withRecord ws fun rx ws =>
      .instr (.chConfig ch arg w0 tx rx) ws
  | .chDeconfig => .instr (.chDeconfig ch arg) ws
  | .chStatus => .instr (.chStatus ch arg) ws
  | .lsb8msb => withWords (bitWords arg.toNat) ws fun bits ws => .instr (.lsb8msb ch arg bits) ws
  | .parEncode => withWords (bitWords (codeDataBits arg)) ws fun data ws => .instr (.parEncode ch arg data) ws
  | .parSyndrome => withWords (bitWords (codewordBits arg)) ws fun codeword ws =>
      .instr (.parSyndrome ch arg codeword) ws
  | .rachCheck => withWord ws fun u ws => .instr (.rachCheck ch arg u) ws
  | .xcchCode => withWords 6 ws fun frame ws => .instr (.xcchCode ch arg frame) ws
  | .xcchDecode => withWords 114 ws fun soft ws => .instr (.xcchDecode ch arg soft) ws
  | .schCode => withWord ws fun data ws => .instr (.schCode ch arg data) ws
  | .convEncode => withWords (bitWords arg.toNat) ws fun bits ws => .instr (.convEncode ch arg bits) ws
  | .viterbiDecode => withWords (softWords (2 * arg.toNat)) ws fun soft ws =>
      .instr (.viterbiDecode ch arg soft) ws
  | .xcchInterleave => withWords 15 ws fun coded ws => .instr (.xcchInterleave ch arg coded) ws
  | .xcchDeinterleave => withWords 116 ws fun rows ws => .instr (.xcchDeinterleave ch arg rows) ws
  | .tchInterleave => withWords 15 ws fun coded ws => withWords 32 ws fun rows ws =>
      .instr (.tchInterleave ch arg coded rows) ws
  | .tchDeinterleave => withWords 232 ws fun rows ws => .instr (.tchDeinterleave ch arg rows) ws
  | .burstMap => withWords 4 ws fun row ws => .instr (.burstMap ch arg row) ws
  | .burstUnmap => withWords 37 ws fun sym ws => .instr (.burstUnmap ch arg sym) ws
  | .tchSpeechEncode => withWords 9 ws fun frame ws => .instr (.tchSpeechEncode ch arg frame) ws
  | .tchSpeechDecode => withWords 114 ws fun soft ws => .instr (.tchSpeechDecode ch arg soft) ws
  | .l2Data => withWords 6 ws fun frame ws => .instr (.l2Data ch arg frame) ws
  | .l2Establish => .instr (.l2Establish ch arg) ws
  | .l2Release => .instr (.l2Release ch arg) ws
  | .l2Error => .instr (.l2Error ch arg) ws
  | .rxBurst => withWord ws fun time ws => withWord ws fun meas ws => withWords 37 ws fun sym ws =>
      .instr (.rxBurst ch arg time meas sym) ws
  | .rachService => .instr (.rachService ch arg) ws
  | .idleFill => .instr (.idleFill ch arg) ws
  | .schSend => withWord ws fun data ws => .instr (.schSend ch arg data) ws
  | .fcchSend => .instr (.fcchSend ch arg) ws
  | .tchSendSlot => .instr (.tchSendSlot ch arg) ws
  | .tchSpeechPush => withWords 9 ws fun frame ws => .instr (.tchSpeechPush ch arg frame) ws
  | .resync => .instr (.resync ch arg) ws
  | .waitToSend => .instr (.waitToSend ch arg) ws
  | .phyRead => .instr (.phyRead ch arg) ws
  | .ferGood => .instr (.ferGood ch arg) ws
  | .ferBad => .instr (.ferBad ch arg) ws
  | .fnAdd => withWord ws fun t ws => withWord ws fun k ws => .instr (.fnAdd ch arg t k) ws
  | .fnDelta => withWord ws fun a ws => withWord ws fun b ws => .instr (.fnDelta ch arg a b) ws
  | .timeCmp => withWord ws fun t1 ws => withWord ws fun t2 ws => .instr (.timeCmp ch arg t1 t2) ws
  | .mapReverse => withWord ws fun t ws => .instr (.mapReverse ch arg t) ws
  | .mapRoll => withWord ws fun t ws => withWord ws fun k ws => .instr (.mapRoll ch arg t k) ws

/-- Whether an unassigned `opc` is one of the reserved primitive kinds `0x44` to `0x4F` (R122). -/
def reservedPrimitive (opc : BitVec 8) : Bool := 0x44#8 ≤ opc && opc ≤ 0x4F#8

/-- Decode the head of the command stream (R124). An illegal opcode has no payload. -/
def decode : List Word → Decoded
  | [] => .incomplete
  | w :: ws =>
    match Opcode.ofCode (opcField w) with
    | some o => decodeOp o (chField w) (argField w) ws
    | none => if reservedPrimitive (opcField w) then .illegalPrimitive w ws else .illegalOpcode w ws

/-! ## The encoder -/

/-- The words of a mapping record (R118). -/
def MapRecord.words (r : MapRecord) : List Word := r.head :: r.p :: r.forward

/-- The payload words of a command, in the order of R113, R118 and R119. -/
def Instr.payload : Instr → List Word
  | .nop _ _ => []
  | .reset _ _ => []
  | .csrWrite _ _ v => [v]
  | .csrRead _ _ => []
  | .chConfig _ _ w0 tx rx => w0 :: (tx.words ++ rx.words)
  | .chDeconfig _ _ => []
  | .chStatus _ _ => []
  | .lsb8msb _ _ bits => bits
  | .parEncode _ _ data => data
  | .parSyndrome _ _ codeword => codeword
  | .rachCheck _ _ u => [u]
  | .xcchCode _ _ frame => frame
  | .xcchDecode _ _ soft => soft
  | .schCode _ _ data => [data]
  | .convEncode _ _ bits => bits
  | .viterbiDecode _ _ soft => soft
  | .xcchInterleave _ _ coded => coded
  | .xcchDeinterleave _ _ rows => rows
  | .tchInterleave _ _ coded rows => coded ++ rows
  | .tchDeinterleave _ _ rows => rows
  | .burstMap _ _ row => row
  | .burstUnmap _ _ sym => sym
  | .tchSpeechEncode _ _ frame => frame
  | .tchSpeechDecode _ _ soft => soft
  | .l2Data _ _ frame => frame
  | .l2Establish _ _ => []
  | .l2Release _ _ => []
  | .l2Error _ _ => []
  | .rxBurst _ _ time meas sym => time :: meas :: sym
  | .rachService _ _ => []
  | .idleFill _ _ => []
  | .schSend _ _ data => [data]
  | .fcchSend _ _ => []
  | .tchSendSlot _ _ => []
  | .tchSpeechPush _ _ frame => frame
  | .resync _ _ => []
  | .waitToSend _ _ => []
  | .phyRead _ _ => []
  | .ferGood _ _ => []
  | .ferBad _ _ => []
  | .fnAdd _ _ t k => [t, k]
  | .fnDelta _ _ a b => [a, b]
  | .timeCmp _ _ t1 t2 => [t1, t2]
  | .mapReverse _ _ t => [t]
  | .mapRoll _ _ t k => [t, k]

/-- The words of a command: its command word, then its payload (R110, R111). -/
def encode (i : Instr) : List Word := commandWord i.opcode.code i.ch i.arg :: i.payload

/-! ## Command boundaries -/

/-- The whole commands at the head of at most `n` words of a command stream, without the words of a command that has only
partly arrived (R124). -/
def wholeCommandsIn : Nat → List Word → List Word
  | 0, _ => []
  | n + 1, ws =>
    match decode ws with
    | .instr i rest => encode i ++ wholeCommandsIn n rest
    | .illegalPrimitive w rest | .illegalOpcode w rest => w :: wholeCommandsIn n rest
    | .incomplete => []

/-- The whole commands of a command stream: a word that follows them is a command word (R412). Each takes at least one
word. -/
def wholeCommands (ws : List Word) : List Word := wholeCommandsIn ws.length ws

/-! ## Table words -/

/-- The most payload words that an operation with this `arg` can ask for (R113): what R113 fixes, and for `CH_CONFIG` two
mapping records with the largest `m` of 8 bits. -/
def mostPayloadWords (o : Opcode) (arg : BitVec 16) : Nat :=
  match o with
  | .csrWrite | .rachCheck | .schCode | .schSend | .mapReverse => 1
  | .fnAdd | .fnDelta | .timeCmp | .mapRoll => 2
  | .chConfig => 5 + 2 * 255
  | .lsb8msb | .convEncode => bitWords arg.toNat
  | .parEncode => bitWords (codeDataBits arg)
  | .parSyndrome => bitWords (codewordBits arg)
  | .viterbiDecode => softWords (2 * arg.toNat)
  | .xcchCode | .l2Data => 6
  | .xcchDecode | .tchSpeechDecode => 114
  | .xcchInterleave => 15
  | .xcchDeinterleave => 116
  | .tchInterleave => 47
  | .tchDeinterleave => 232
  | .burstMap => 4
  | .burstUnmap => 37
  | .tchSpeechEncode | .tchSpeechPush => 9
  | .rxBurst => 39
  | .nop | .reset | .csrRead | .chDeconfig | .chStatus | .l2Establish | .l2Release | .l2Error | .rachService | .idleFill
  | .fcchSend | .tchSendSlot | .resync | .waitToSend | .phyRead | .ferGood | .ferBad => 0

/-- The payload words of zeros to put after an opcode-table word. -/
def zeroPayload (w : Word) : List Word :=
  match Opcode.ofCode (opcField w) with
  | some o => List.replicate (mostPayloadWords o (argField w)) 0#32
  | none => []

/-- The `count` words of the number `w`: the first is bits 31:0 of `w`, the next bits 63:32, and so on. -/
def numberWords (w : Nat) : Nat → List Word
  | 0 => []
  | n + 1 => BitVec.ofNat 32 w :: numberWords (w / 2 ^ 32) n

/-- The words of an instruction given as a number of `nbits` bits, followed by payload words of zeros up to the longest
command that its first word can start. -/
def tableStream (nbits w : Nat) : List Word :=
  numberWords (w % 2 ^ nbits) (bitWords nbits) ++ zeroPayload (BitVec.ofNat 32 (w % 2 ^ nbits))

/-- The instruction the decoder reads from an opcode-table word. -/
def decodeTableWord (nbits w : Nat) : Option Instr :=
  match decode (tableStream nbits w) with
  | .instr i _ => some i
  | _ => none

end Sys2Proof
end

