-- ==== Sys2Proof/Machine/Operands.lean ====
section
/-! DEFINITION. Operand assembly: the packings of R86 and R114 to R119, the fields of `arg` (R120), and the layouts of
the output records (R125, R126). -/

namespace Sys2Proof.Machine

/-! ## Bit and soft vectors -/

/-- Pack a bit vector (R114): element `i` is bit `31 - (i mod 32)` of word `i div 32`; bits past the end are 0. -/
def packBits {n : Nat} (v : BitVec n) : List Word :=
  (List.range (bitWords n)).map fun w => bitsOf 32 fun b => v.getMsbD (32 * w + b)

/-- Read a bit vector of `n` bits (R114); bits of the last word past its end are ignored. -/
def unpackBits (n : Nat) (ws : List Word) : BitVec n :=
  bitsOf n fun i => (ws.getD (i / 32) 0).getMsbD (i % 32)

/-- Byte lane `3 - j` of a word, the `j`-th symbol it holds (R86, R115). -/
def softLane (w : Word) (j : Nat) : Soft := w.extractLsb' (8 * (3 - j)) 8

/-- Read a soft vector of `n` symbols (R115). -/
def unpackSoft (n : Nat) (ws : List Word) : Vector Soft n :=
  vecOf n fun i => softLane (ws.getD (i / 4) 0) (i % 4)

/-- Pack a soft vector (R115); lanes past the end are 0. -/
def packSoft {n : Nat} (v : Vector Soft n) : List Word :=
  (List.range (softWords n)).map fun w =>
    ((v.getD (4 * w) 0 ++ v.getD (4 * w + 1) 0) ++ v.getD (4 * w + 2) 0) ++ v.getD (4 * w + 3) 0

/-- No symbol has the illegal code 255 (R115). -/
def legalSoft {n : Nat} (v : Vector Soft n) : Bool := v.toList.all (· != illegalSoft)

/-- Row `r` of a payload of bit rows of 114 bits, 4 words each (R212, R216). -/
def bitRow (ws : List Word) (r : Nat) : BitVec 114 := unpackBits 114 ((ws.drop (4 * r)).take 4)

/-- Row `r` of a payload of soft rows of 114 symbols, 29 words each (R213, R217). -/
def softRow (ws : List Word) (r : Nat) : Vector Soft 114 := unpackSoft 114 ((ws.drop (29 * r)).take 29)

/-! ## Time, measurement and signed words -/

/-- The time word of a time (R116). -/
def timeWord (t : Time) : Word := (t.tn ++ 0#7) ++ BitVec.ofNat 22 t.fn

/-- A legal time word (R116): reserved bits 0 and `FN < H`. -/
def legalTime (P : Config.Params) (w : Word) : Bool :=
  w.extractLsb' 22 7 == 0#7 && decide ((w.extractLsb' 0 22).toNat < P.hyperframe)

/-- The time a legal time word stands for (R116). -/
def timeOf (w : Word) : Time :=
  ⟨(w.extractLsb' 0 22).toNat, w.extractLsb' 29 3⟩

/-- `rssi` of a measurement word (R117). -/
def measRssi (w : Word) : BitVec 16 := w.extractLsb' 16 16

/-- `te` of a measurement word (R117). -/
def measTe (w : Word) : BitVec 16 := w.extractLsb' 0 16

/-- A signed word (R117). -/
def signedWord (i : Int) : Word := BitVec.ofInt 32 i

/-! ## `CH_CONFIG` payload -/

/-- The kind a `KIND` code selects in `CH_CONFIG` (R40, R272): 0 and 7 to 15 select none. -/
def kindOfCode (c : BitVec 4) : Option Kind :=
  match c.toNat with
  | 1 => some .xcch
  | 2 => some .sacch
  | 3 => some .rach
  | 4 => some .sch
  | 5 => some .fcch
  | 6 => some .tch
  | _ => none

/-- The code of a kind (R40). -/
def kindCode : Kind → BitVec 4
  | .none => 0
  | .xcch => 1
  | .sacch => 2
  | .rach => 3
  | .sch => 4
  | .fcch => 5
  | .tch => 6

/-- The reserved fields of a mapping record are 0 (R118): bits 6:0 of word 0, and word 1 when `m = 0`
(log entry 7). -/
def legalRecord (r : MapRecord) : Bool :=
  r.head.extractLsb' 0 7 == 0#7 && (recordM r.head != 0 || r.p == 0#32)

/-- The mapping a record stands for (R118): none when `m = 0`. -/
def recordMapping (r : MapRecord) : Option Mapping :=
  if recordM r.head = 0 then none
  else some
    { allowed := r.head.extractLsb' 16 8, downlink := r.head.getLsbD 7, p := r.p, forward := r.forward
      tag := r.head.extractLsb' 8 8 }

/-- The reserved bits 23:16 of a `CH_CONFIG` payload's word 0 are 0 (R118). -/
def legalConfigWord (w : Word) : Bool := w.extractLsb' 16 8 == 0#8

/-- `KIND` of a `CH_CONFIG` payload's word 0 (R118). -/
def configKind (w : Word) : Option Kind := kindOfCode (w.extractLsb' 28 4)

/-- `TN` of a `CH_CONFIG` payload's word 0 (R118). -/
def configTn (w : Word) : BitVec 3 := w.extractLsb' 25 3

/-- `C0` of a `CH_CONFIG` payload's word 0 (R118). -/
def configC0 (w : Word) : Bool := w.getLsbD 24

/-- `ARFCN` of a `CH_CONFIG` payload's word 0 (R118). -/
def configArfcn (w : Word) : BitVec 16 := w.extractLsb' 0 16

/-! ## `arg` fields -/

/-- `Hl` of `BURST_MAP` (R120). -/
def argHl (arg : BitVec 16) : Bool := arg.getLsbD 0

/-- `Hu` of `BURST_MAP` (R120). -/
def argHu (arg : BitVec 16) : Bool := arg.getLsbD 1

/-- The TSC index of `BURST_MAP` (R120). -/
def argTsc (arg : BitVec 16) : BitVec 3 := arg.extractLsb' 2 3

/-- The BSIC of `RACH_CHECK` (R120). -/
def argBsic (arg : BitVec 16) : BitVec 6 := arg.extractLsb' 0 6

/-- Bit 0 of `arg`: `IA` of `L2_ESTABLISH`, `dir` of `MAP_REVERSE` and `MAP_ROLL` (R120). -/
def argBit0 (arg : BitVec 16) : Bool := arg.getLsbD 0

/-- Some bit of `arg` from bit `lowest` upwards is set: a reserved bit (R120). -/
def argAbove (arg : BitVec 16) (lowest : Nat) : Bool := arg >>> lowest != 0#16

/-- The block offset of the TCH interleaver operations (R120): legal values 0 and 4. -/
def argOffset (arg : BitVec 16) : Option Offset :=
  match arg.toNat with
  | 0 => some .zero
  | 4 => some .four
  | _ => none

/-! ## Output records -/

/-- A TX record (R125). -/
def txRecord (ch : BitVec 8) (arfcn : BitVec 16) (t : Time) (bits : BitVec 148) : List Word :=
  ((0x01#8 ++ ch) ++ arfcn) :: timeWord t :: packBits bits

/-- An UP record of a type (R126): word 0 counts the words that follow. -/
def upRecord (type : BitVec 8) (ch : BitVec 8) (words : List Word) : List Word :=
  ((type ++ ch) ++ BitVec.ofNat 16 words.length) :: words

/-- The status word of an answer with `r` response words (R112). -/
def statusWord (opc result : BitVec 8) (r : Nat) : Word := (opc ++ result) ++ BitVec.ofNat 16 r

end Sys2Proof.Machine
end

