-- ==== Sys2Proof/Machine/Flags.lean ====
section
/-! DEFINITION. Every status flag and status computation the spec gives (R32, R55, R275, R351 to R363). -/

namespace Sys2Proof.Machine

open Config (Params)

variable (P : Params)

/-- `FAULTED`, bit 31 of `FAULT` (R32). -/
def State.faulted (s : State) : Bool := s.csr.fault.getLsbD 31

/-- The kind has an encoder (R40). -/
def Kind.hasEncoder : Kind → Bool
  | .xcch | .sacch | .sch | .fcch | .tch => true
  | .none | .rach => false

/-- The kind has the timers T3101, T3109 and T3111 (R277, R360). -/
def Kind.hasTimers : Kind → Bool
  | .xcch | .sacch | .tch => true
  | .none | .rach | .sch | .fcch => false

/-- The kind's decoder keeps the measurement ring, and the kind can send idle fill (R287, R293, R362). -/
def Kind.hasRing : Kind → Bool
  | .xcch | .sacch | .tch => true
  | .none | .rach | .sch | .fcch => false

/-- The context has a decoder (R40, R244 item 7): kinds RACH and TCH, and XCCH and SACCH with an `RXMAP`. -/
def Ctx.hasDecoder (c : Ctx) : Bool :=
  match c.cfg.kind with
  | .rach | .tch => true
  | .xcch | .sacch => c.cfg.rxmap.isSome
  | .none | .sch | .fcch => false

/-! ## Timers -/

/-- `expired(T)` (R358). -/
def Timer.expired (t : Timer) (nowMs : Word) : Bool := t.armed && decide (t.timeout.toNat ≤ (nowMs - t.start).toNat)

/-- The status of a timer (R275): 0 inactive, 1 armed and not expired, 2 expired. -/
def Timer.status (t : Timer) (nowMs : Word) : BitVec 2 := if !t.armed then 0 else if t.expired nowMs then 2 else 1

/-- `recyclable(c)` (R360). -/
def Decoder.recyclable (d : Decoder) (nowMs : Word) : Bool :=
  d.t3101.expired nowMs || d.t3109.expired nowMs || d.t3111.expired nowMs

/-- `decActive(c)` (R361). -/
def Decoder.active (d : Decoder) (nowMs : Word) : Bool := d.accepting && !d.recyclable nowMs

/-! ## FER filter -/

/-- `b·F` in the block's Q0.32 format (R350, R351). -/
def ferGood (f : BitVec 32) : BitVec 32 := BitVec.ofNat 32 (f.toNat * (P.mFer - 1) / P.mFer)

/-- `b·F + a` (R352). -/
def ferBad (f : BitVec 32) : BitVec 32 := ferGood P f + BitVec.ofNat 32 (2 ^ 32 / P.mFer)

/-! ## Measurements -/

/-- The sum of the four signed entries of a ring (R363, R364). -/
def ringSum (v : Vector (BitVec 16) 4) : Int := (v.toList.map BitVec.toInt).sum

/-- `meas(c)` (R363): the floor means of the two rings as a measurement word. -/
def Decoder.meas (d : Decoder) : Word := BitVec.ofInt 16 (ringSum d.rssi / 4) ++ BitVec.ofInt 16 (ringSum d.te / 4)

/-- `TA` of a timing error code (R289): rounded half away from zero, clamped to `[0, 63]`. -/
def timingAdvance (te : BitVec 16) : Nat :=
  let rounded : Int := te.toInt.sign * (((te.toInt.natAbs + 128) / 256 : Nat) : Int)
  (min (max rounded 0) 63).toNat

/-! ## Status words -/

/-- Word 0 of `CH_STATUS` (R275). -/
def statusFlags (c : Ctx) (nowMs : Word) : Word :=
  (((((((((((((kindCode c.cfg.kind ++ c.cfg.tn) ++ BitVec.ofBool c.cfg.c0) ++ 0#10)
    ++ c.dec.t3111.status nowMs) ++ c.dec.t3109.status nowMs) ++ c.dec.t3101.status nowMs)
    ++ BitVec.ofBool c.enc.prevFACCH) ++ BitVec.ofBool (c.enc.offset == .four)) ++ BitVec.ofBool c.dec.phyNew)
    ++ BitVec.ofBool (c.dec.recyclable nowMs)) ++ BitVec.ofBool (c.dec.active nowMs))
    ++ BitVec.ofBool c.dec.accepting) ++ BitVec.ofBool c.enc.active) ++ BitVec.ofBool c.cfg.running

/-- The tag `CH_STATUS` reports (R275): that of `TXMAP`, else of `RXMAP`, else 0. -/
def statusTag (cfg : ChanConfig) : BitVec 8 :=
  match cfg.txmap, cfg.rxmap with
  | some M, _ => M.tag
  | none, some M => M.tag
  | none, none => 0#8

/-- Word 4 of `CH_STATUS` (R275): the queue lengths and the tag. -/
def statusQueues (c : Ctx) : Word :=
  ((BitVec.ofNat 8 c.enc.speechQ.length ++ BitVec.ofNat 8 c.enc.facchQ.length) ++ BitVec.ofNat 8 c.dec.rachQ.length)
    ++ statusTag c.cfg

/-- The six response words of `CH_STATUS` (R275). -/
def statusWords (c : Ctx) (nowMs : Word) : List Word :=
  [statusFlags c nowMs, c.dec.fer, timeWord c.enc.nextWT, timeWord c.enc.prevWT, statusQueues c, c.enc.totalBursts]

end Sys2Proof.Machine
end

