-- ==== Sys2Proof/Machine/Ops.lean ====
section
/-! DEFINITION. The shared operations on the state: reaching registers and contexts, answering a command, taking a fault
(R384) and the return from one (R387, R411), appending records, the encoder's schedule (R247 to R250), holds (R392), timers
(R356, R357), the measurement ring (R362), open and close (R277, R278). -/

namespace Sys2Proof.Machine

open Config (Params)

variable (P : Params)

/-- What a step of the block answers. -/
abbrev Result := Host.Outcome State Fault Refusal

/-! ## Contexts -/

/-- `ctx[c]` (R39). -/
def State.getCtx (s : State) (c : BitVec 8) : Ctx := s.ctx.getD c.toNat .reset

/-- `ctx[c] <- x`. -/
def State.setCtx (s : State) (c : BitVec 8) (x : Ctx) : State := { s with ctx := s.ctx.set c.toNat x }

/-- Update `ctx[c]`. -/
def State.updCtx (s : State) (c : BitVec 8) (f : Ctx → Ctx) : State := s.setCtx c (f (s.getCtx c))

/-- Update the encoder part of `ctx[c]`. -/
def State.updEnc (s : State) (c : BitVec 8) (f : Encoder → Encoder) : State :=
  s.updCtx c fun x => { x with enc := f x.enc }

/-- Update the decoder part of `ctx[c]`. -/
def State.updDec (s : State) (c : BitVec 8) (f : Decoder → Decoder) : State :=
  s.updCtx c fun x => { x with dec := f x.dec }

/-! ## Control registers -/

/-- `csr[i]` as `CSR_READ` answers it (R31 to R36); none for a reserved index. -/
def State.csrRead (s : State) (i : BitVec 16) : Option Word :=
  match i.toNat with
  | 0x0 => some 0x4C314643#32
  | 0x1 => some s.csr.fault
  | 0x2 => some s.csr.bsic
  | 0x3 => some s.csr.t3101Ms
  | 0x4 => some s.csr.t3109Ms
  | 0x5 => some s.csr.t3111Ms
  | 0x6 => some s.csr.maxSpeechLatency
  | 0x7 => some (BitVec.ofNat 32 P.numCtx)
  | 0x8 => some (BitVec.ofNat 32 P.rachQDepth)
  | 0x9 => some (BitVec.ofNat 32 P.facchQDepth)
  | 0xA => some (BitVec.ofNat 32 P.speechQDepth)
  | 0xB => some s.csr.rachDrops
  | 0xC => some (timeWord s.nowTime)
  | 0xD => some s.nowMs
  | _ => none

/-- A timeout register takes the values 1 to `2^31 - 1` (R34). -/
def legalTimeout (v : Word) : Bool := v != 0#32 && !v.msb

/-- `csr[i] <- v` as `CSR_WRITE` does it (R270); none where the write faults: a read-only or reserved index, or an illegal
value. -/
def Csr.write (r : Csr) (i : BitVec 16) (v : Word) : Option Csr :=
  match i.toNat with
  | 0x2 => some { r with bsic := (v.extractLsb' 0 6).setWidth 32 }
  | 0x3 => if legalTimeout v then some { r with t3101Ms := v } else none
  | 0x4 => if legalTimeout v then some { r with t3109Ms := v } else none
  | 0x5 => if legalTimeout v then some { r with t3111Ms := v } else none
  | 0x6 =>
    if (v.extractLsb' 0 8).toNat ≤ P.speechQDepth then
      some { r with maxSpeechLatency := (v.extractLsb' 0 8).setWidth 32 }
    else none
  | _ => none

/-- `BSIC`, bits 5:0 of its register (R33). -/
def Csr.bsicField (r : Csr) : BitVec 6 := r.bsic.extractLsb' 0 6

/-- `BCC = BSIC[2:0]` (R33). -/
def Csr.bcc (r : Csr) : BitVec 3 := r.bsic.extractLsb' 0 3

/-! ## Answers and faults -/

/-- The fault codes (R381). -/
inductive FaultCode where
  | illegalOpcode
  | illegalPrimitive
  | badChannel
  | notConfigured
  | configError
  | demuxMisconfig
  | badArgument
  | queueOverflow
  | wrongKind
deriving DecidableEq, Repr

/-- The number of a fault code (R381). -/
def FaultCode.code : FaultCode → BitVec 8
  | .illegalOpcode => 0x01
  | .illegalPrimitive => 0x02
  | .badChannel => 0x03
  | .notConfigured => 0x04
  | .configError => 0x05
  | .demuxMisconfig => 0x06
  | .badArgument => 0x07
  | .queueOverflow => 0x08
  | .wrongKind => 0x09

/-- Answer a command (R82, R112): its status word and response words are appended, and no command holds any more. -/
def State.answer (s : State) (opc result : BitVec 8) (words : List Word) : State :=
  { s with answers := s.answers ++ [statusWord opc result words.length :: words], held := none }

/-- A command completes: result `0x00` with its response words (R112). -/
def State.complete (s : State) (o : Opcode) (words : List Word) : State := s.answer o.code 0x00#8 words

/-- The contents of `FAULT` after a fault (R384): `1 << 31 | c << 16 | f << 8 | o`. -/
def faultWord (opc ch : BitVec 8) (f : FaultCode) : Word := (((1#1 ++ 0#7) ++ ch) ++ f.code) ++ opc

/-- TAKING A FAULT (R384): `FAULT` is written, the fault status is answered, nothing else changes. -/
def State.takeFault (s : State) (opc ch : BitVec 8) (f : FaultCode) : State :=
  { s with csr := { s.csr with fault := faultWord opc ch f } }.answer opc f.code []

/-- The answer to a command in the fault state (R385): `BLOCKED`, nothing else changes. -/
def State.blocked (s : State) (opc : BitVec 8) : State := s.answer opc 0xFF#8 []

/-- THE RETURN FROM A FAULT is reset (R387), and reset is this (R411): every control register and every context takes its
reset value and a held command is abandoned (R410); the ports and the clock inputs stay (R412). -/
def State.resetEffect (s : State) : State := { s with csr := .reset P, ctx := Ctx.allReset P, held := none }

/-- The first check that fails, in the order of R383. -/
def firstFault : List (Bool × FaultCode) → Option FaultCode
  | [] => none
  | (failed, f) :: rest => if failed then some f else firstFault rest

/-- Run a command (R383): blocked in the fault state, else the first failing check's fault, else the effect. -/
def State.command (s : State) (o : Opcode) (ch : BitVec 8) (checks : List (Bool × FaultCode)) (effect : Result) : Result :=
  if s.faulted then .next (s.blocked o.code)
  else
    match firstFault checks with
    | some f => .next (s.takeFault o.code ch f)
    | none => effect

/-- The `ch` check of a global or pure command (R123). -/
def notGlobal (ch : BitVec 8) : Bool × FaultCode := (ch != 0#8, .badChannel)

/-- The `ch` check of a channel command (R123). -/
def noContext (ch : BitVec 8) : Bool × FaultCode := (decide (P.numCtx ≤ ch.toNat), .badChannel)

/-- The `arg` check of a command that uses no bit of `arg` (R120). -/
def argUsed (arg : BitVec 16) : Bool × FaultCode := (arg != 0#16, .badArgument)

/-- The check that the context is configured (R383 item 7). -/
def State.notRunning (s : State) (ch : BitVec 8) : Bool × FaultCode := (!(s.getCtx ch).cfg.running, .notConfigured)

/-! ## Output records -/

/-- `Emit(TX, rec)` (R84). -/
def State.emitTx (s : State) (rec : List Word) : State := { s with tx := s.tx ++ [rec] }

/-- `Emit(UP, rec)` (R84). -/
def State.emitUp (s : State) (rec : List Word) : State := { s with up := s.up ++ [rec] }

/-! ## Encoder schedule -/

/-- `reseat(c, t0)` (R250). -/
def Ctx.reseat (c : Ctx) (t0 : Time) : Ctx :=
  match c.cfg.txmap with
  | none => c
  | some M =>
    { c with enc :=
      { c.enc with
        nextWT := rollTo P ⟨t0.fn, c.cfg.tn⟩ (frameMapping M c.enc.totalBursts.toNat) M.p.toNat
        prevWT := ⟨t0.fn, c.cfg.tn⟩ } }

/-- `resync(c, t0)` (R248). -/
def Ctx.resync (c : Ctx) (t0 : Time) : Ctx :=
  if fnDelta P c.enc.nextWT.fn t0.fn < 0 ∨ 1326 < fnDelta P c.enc.nextWT.fn t0.fn then c.reseat P t0 else c

/-- `totalBursts + 1`, which wraps mod `2^TB_WIDTH` (R44, R247). -/
def countBurst (n : Word) : Word := BitVec.ofNat 32 ((n.toNat + 1) % 2 ^ P.tbWidth)

/-- The scheduling part of `rollForward` (R247). -/
def Ctx.roll (c : Ctx) : Ctx :=
  match c.cfg.txmap with
  | none => c
  | some M =>
    { c with enc :=
      { c.enc with
        prevWT := c.enc.nextWT
        totalBursts := countBurst P c.enc.totalBursts
        nextWT := rollTo P c.enc.nextWT (frameMapping M (countBurst P c.enc.totalBursts).toNat) M.p.toNat } }

/-- `rollForward(c)` (R247) with its `NEXT_WTIME` record (R258). -/
def State.rollForward (s : State) (ch : BitVec 8) : State :=
  (s.setCtx ch ((s.getCtx ch).roll P)).emitUp (upRecord 0x15#8 ch [timeWord ((s.getCtx ch).roll P).enc.nextWT])

/-- Emit a TX record of `bits` at `nextWT`, then roll forward (R247, R283). -/
def State.sendBurst (s : State) (ch : BitVec 8) (bits : BitVec 148) : State :=
  (s.emitTx (txRecord ch (s.getCtx ch).cfg.arfcn (s.getCtx ch).enc.nextWT bits)).rollForward P ch

/-- Send bursts one after the other (R283 step 7). -/
def State.sendBursts (s : State) (ch : BitVec 8) (bursts : List (BitVec 148)) : State :=
  bursts.foldl (fun s b => s.sendBurst P ch b) s

/-- `t0`: `NOW_TIME` as sampled when the running command started (R392). -/
def State.t0 (s : State) : Time :=
  match s.held with
  | some h => h.t0
  | none => s.nowTime

/-- The wait condition of `waitToSend` (R249) holds. -/
def waitOver (now prevWT : Time) : Bool := decide (0 ≤ timeCmp P now prevWT)

/-- `waitToSend` (R249, R392): go on with `done` if the previous write time has been reached, else hold. A command that holds
has made no change (R88): the state keeps only the command and its `t0`. -/
def State.waitToSend (s : State) (i : Instr) (prevWT : Time) (done : State) : Result :=
  if waitOver P s.nowTime prevWT then .next done else .next { s with held := some ⟨i, s.t0⟩ }

/-! ## Timers, counters, measurements -/

/-- `set(T)` (R356). -/
def Timer.set (nowMs timeout : Word) : Timer := { armed := true, start := nowMs, timeout := timeout }

/-- `reset(T)` (R357): `start` and `timeout` are kept. -/
def Timer.stop (t : Timer) : Timer := { t with armed := false }

/-- `goodFrame(c)` (R365): T3101 is reset, T3109 restarted. -/
def Decoder.goodFrame (d : Decoder) (nowMs : Word) (r : Csr) : Decoder :=
  { d with t3101 := d.t3101.stop, t3109 := .set nowMs r.t3109Ms }

/-- `countGood(c)` (R351). -/
def Decoder.countGood (d : Decoder) : Decoder := { d with fer := ferGood P d.fer }

/-- `countBad(c)` (R352). -/
def Decoder.countBad (d : Decoder) : Decoder := { d with fer := ferBad P d.fer }

/-- The ring update of R362. -/
def Decoder.ringUpdate (d : Decoder) (rssi te : BitVec 16) : Decoder :=
  { d with
    rssi := d.rssi.setIfInBounds d.phyCnt.toNat rssi
    te := d.te.setIfInBounds d.phyCnt.toNat te
    phyCnt := d.phyCnt + 1
    phyNew := true }

/-! ## Open and close -/

/-- The encoder part of `open(c, ia)` (R277). -/
def Ctx.openEnc (c : Ctx) (t0 : Time) : Ctx :=
  let c1 := Ctx.reseat P { c with enc := { c.enc with active := true, totalBursts := 0 } } t0
  if c.cfg.kind = .tch then
    { c1 with enc :=
      { c1.enc with offset := .zero, prevFACCH := false, curFACCH := false, facchQ := [], speechQ := [] } }
  else c1

/-- The decoder part of `open(c, ia)` (R277). -/
def Ctx.openDec (c : Ctx) (ia : Bool) (nowMs : Word) (r : Csr) : Ctx :=
  let d1 : Decoder :=
    { c.dec with
      accepting := true, fer := 0
      dI4 := Vector.replicate 4 (Vector.replicate 114 erasure)
      dI8 := Vector.replicate 8 (Vector.replicate 114 erasure)
      dHl := Vector.replicate 8 erasure, dHu := Vector.replicate 8 erasure
      rssi := Vector.replicate 4 0, te := Vector.replicate 4 0, phyCnt := 0, phyNew := false }
  let d2 := if c.cfg.kind = .rach then { d1 with rachQ := [] } else d1
  let d3 :=
    if c.cfg.kind.hasTimers then
      { d2 with
        t3109 := .set nowMs r.t3109Ms
        t3111 := d2.t3111.stop
        t3101 := if ia then .set nowMs r.t3101Ms else d2.t3101.stop }
    else d2
  { c with dec := d3 }

/-- `open(c, ia)` (R277). -/
def Ctx.open (c : Ctx) (ia : Bool) (t0 : Time) (nowMs : Word) (r : Csr) : Ctx :=
  let c1 := if c.cfg.kind.hasEncoder then c.openEnc P t0 else c
  if c.hasDecoder then c1.openDec ia nowMs r else c1

/-- `closeEnc(c)` where the kind has an encoder (R278, R280). -/
def Ctx.closeEnc (c : Ctx) : Ctx :=
  if c.cfg.kind.hasEncoder then { c with enc := { c.enc with active := false } } else c

/-- `closeDec(c)` where the context has a decoder (R278, R280). -/
def Ctx.closeDec (c : Ctx) (nowMs : Word) (r : Csr) : Ctx :=
  if c.hasDecoder then
    let d1 := { c.dec with accepting := false }
    { c with dec :=
      if c.cfg.kind.hasTimers then
        { d1 with t3101 := d1.t3101.stop, t3109 := d1.t3109.stop, t3111 := .set nowMs r.t3111Ms }
      else d1 }
  else c

end Sys2Proof.Machine
end

