-- ==== Sys2Proof/Machine/Agents.lean ====
section
/-! DEFINITION. The agents of R391 and their turns: the command processor (fetching a command, resuming a held one, the
illegal opcodes), the environment (clock inputs, `RST`), the host (words on the command port). `run` is what a command does. -/

namespace Sys2Proof.Machine

open Config (Params)

/-- A command word with an unassigned `opc` (R122, R284): blocked in the fault state, else the fault `f`. -/
def illegalCommand (f : FaultCode) (w : Word) (s : State) : Result :=
  if s.faulted then .next (s.blocked (opcField w)) else .next (s.takeFault (opcField w) (chField w) f)

/-- The command processor's turn: a held command goes on (R392); else the next command of the command port runs (R88,
R110), its words consumed; with no whole command there, the block is idle. -/
def processorTurn (run : Instr → State → Result) (s : State) : Result :=
  match s.held with
  | some h => run h.instr s
  | none =>
    match decode s.cmd with
    | .instr i rest => run i { s with cmd := rest }
    | .illegalPrimitive w rest => illegalCommand .illegalPrimitive w { s with cmd := rest }
    | .illegalOpcode w rest => illegalCommand .illegalOpcode w { s with cmd := rest }
    | .incomplete => .next s

/-- The environment replaces the clock inputs (R43): `NOW_TIME` by a time not earlier in TDMA order (R242), `NOW_MS` by
`(NOW_MS + ms) mod 2^32`. A time that breaks the contract (R417), or is no TDMA time (R14), stops the model. -/
def clockTurn (P : Params) (time : Time) (ms : Word) (s : State) : Result :=
  if time.legal P && decide (0 ≤ timeCmp P time s.nowTime) then .next { s with nowTime := time, nowMs := s.nowMs + ms }
  else .fault .clockContract

/-- The environment asserts `RST` (R410): the reset of R411, and the words of a command that the host has only partly presented
leave the command port, which then expects a command word (R412). -/
def State.rst (P : Params) (s : State) : State := { s.resetEffect P with cmd := wholeCommands s.cmd }

/-- A turn of the agent that moves next. -/
def agentTurn (P : Params) (run : Instr → State → Result) (t : Turn) (s : State) : Result :=
  match t with
  | .processor => processorTurn run s
  | .clock time ms => clockTurn P time ms s
  | .rst => .next (s.rst P)
  | .issue words => .next { s with cmd := s.cmd ++ words }

/-- One turn of the machine: the agent at the head of `sched` moves; the command processor when nobody is named. -/
def machineTurn (P : Params) (run : Instr → State → Result) (s : State) : Result :=
  match s.sched with
  | [] => processorTurn run s
  | t :: ts => agentTurn P run t { s with sched := ts }

/-- The state with the command stream of an opcode-table word on the command port, the command processor free to take it
next. -/
def State.presentTableWord (s : State) (nbits w : Nat) : State :=
  { s with cmd := tableStream nbits w, held := none, sched := [] }

end Sys2Proof.Machine
end

