-- ==== Sys2Proof/Machine/Datapath.lean ====
section
/-! DEFINITION. The meanings of the pure datapath commands: bit primitives, block coding, convolutional coding,
interleaving, burst mapping and TCH speech coding. They change no context and no register. -/

namespace Sys2Proof.Machine

open Config (Params)

variable (P : Params)

/-! ## Bit primitives and block coding -/

/-- `LSB8MSB` (R152). -/
def execLsb8msb (ch : BitVec 8) (arg : BitVec 16) (bits : List Word) (s : State) : Result :=
  s.command .lsb8msb ch [notGlobal ch, (arg.toNat == 0 || decide (1024 < arg.toNat), .badArgument)] <|
    .next (s.complete .lsb8msb (packBits (lsb8msb (unpackBits arg.toNat bits))))

/-- The response words of `PAR_ENCODE` (R167): the remainder, then its complement. -/
def parityWords (id : BitVec 16) (data : List Word) : List Word :=
  match blockCode P id with
  | none => []
  | some c =>
    packBits (remainder c.g (unpackBits c.k data)) ++ packBits (~~~remainder c.g (unpackBits c.k data))

/-- `PAR_ENCODE` (R167). -/
def execParEncode (ch : BitVec 8) (arg : BitVec 16) (data : List Word) (s : State) (P : Params := hardware) : Result :=
  s.command .parEncode ch [notGlobal ch, ((blockCode P arg).isNone, .badArgument)] <|
    .next (s.complete .parEncode (parityWords P arg data))

/-- The response words of `PAR_SYNDROME` (R168). -/
def syndromeWords (id : BitVec 16) (codeword : List Word) : List Word :=
  match blockCode P id with
  | none => []
  | some c => packBits (syndrome c.g (unpackBits (c.k + c.r) codeword))

/-- `PAR_SYNDROME` (R168). -/
def execParSyndrome (ch : BitVec 8) (arg : BitVec 16) (codeword : List Word) (s : State) (P : Params := hardware) : Result :=
  s.command .parSyndrome ch [notGlobal ch, ((blockCode P arg).isNone, .badArgument)] <|
    .next (s.complete .parSyndrome (syndromeWords P arg codeword))

/-- The response word of `RACH_CHECK` (R171): `tailOK << 31 | parityOK << 30 | RA`. -/
def rachCheckWord (u : BitVec 18) (bsic : BitVec 6) : Word :=
  ((BitVec.ofBool (rachTailOK u) ++ BitVec.ofBool (rachParityOK P u bsic)) ++ 0#22) ++ rachRA u

/-- `RACH_CHECK` (R171). -/
def execRachCheck (ch : BitVec 8) (arg : BitVec 16) (u : Word) (s : State) (P : Params := hardware) : Result :=
  s.command .rachCheck ch [notGlobal ch, (argAbove arg 6, .badArgument)] <|
    .next (s.complete .rachCheck [rachCheckWord P (unpackBits 18 [u]) (argBsic arg)])

/-- `XCCH_CODE` (R172). -/
def execXcchCode (ch : BitVec 8) (arg : BitVec 16) (frame : List Word) (s : State) (P : Params := hardware) : Result :=
  s.command .xcchCode ch [notGlobal ch, argUsed arg] <|
    .next (s.complete .xcchCode (packBits (convEncode (xcchFill P 0 (unpackBits 184 frame)))))

/-- The response words of `XCCH_DECODE` (R173): `ok`, then the data bits. -/
def xcchDecodeWords (c : Vector Soft 456) : List Word :=
  let u := invertParity (P.vd 228 c)
  (BitVec.ofBool (xcchValid P u)).setWidth 32 :: packBits (lsb8msb (slice u 0 184))

/-- `XCCH_DECODE` (R173). -/
def execXcchDecode (ch : BitVec 8) (arg : BitVec 16) (soft : List Word) (s : State) (P : Params := hardware) : Result :=
  s.command .xcchDecode ch [notGlobal ch, argUsed arg, (!legalSoft (unpackSoft 456 soft), .badArgument)] <|
    .next (s.complete .xcchDecode (xcchDecodeWords P (unpackSoft 456 soft)))

/-- `SCH_CODE` (R174). -/
def execSchCode (ch : BitVec 8) (arg : BitVec 16) (data : Word) (s : State) (P : Params := hardware) : Result :=
  s.command .schCode ch [notGlobal ch, argUsed arg] <|
    .next (s.complete .schCode (packBits (convEncode (schUncoded P (unpackBits 25 [data])))))

/-! ## Convolutional coding -/

/-- The `n` of `CONV_ENCODE` and `VITERBI_DECODE` is out of range (R120). -/
def codeLengthBad (arg : BitVec 16) : Bool × FaultCode :=
  (decide (arg.toNat < 5) || decide (512 < arg.toNat), .badArgument)

/-- `CONV_ENCODE` (R191). -/
def execConvEncode (ch : BitVec 8) (arg : BitVec 16) (bits : List Word) (s : State) : Result :=
  s.command .convEncode ch [notGlobal ch, codeLengthBad arg] <|
    .next (s.complete .convEncode (packBits (convEncode (unpackBits arg.toNat bits))))

/-- `VITERBI_DECODE` (R198). -/
def execViterbiDecode (ch : BitVec 8) (arg : BitVec 16) (soft : List Word) (s : State) (P : Params := hardware) : Result :=
  s.command .viterbiDecode ch
    [notGlobal ch, codeLengthBad arg, (!legalSoft (unpackSoft (2 * arg.toNat) soft), .badArgument)] <|
    .next (s.complete .viterbiDecode (packBits (P.vd arg.toNat (unpackSoft (2 * arg.toNat) soft))))

/-! ## Interleaving -/

/-- `XCCH_INTERLEAVE` (R212). -/
def execXcchInterleave (ch : BitVec 8) (arg : BitVec 16) (coded : List Word) (s : State) : Result :=
  s.command .xcchInterleave ch [notGlobal ch, argUsed arg] <|
    .next (s.complete .xcchInterleave ((xcchInterleave (unpackBits 456 coded)).toList.flatMap packBits))

/-- The four soft rows of an `XCCH_DEINTERLEAVE` payload (R213). -/
def softRows4 (rows : List Word) : Vector (Vector Soft 114) 4 := vecOf 4 (softRow rows)

/-- The eight soft rows of a `TCH_DEINTERLEAVE` payload (R217). -/
def softRows8 (rows : List Word) : Vector (Vector Soft 114) 8 := vecOf 8 (softRow rows)

/-- The eight bit rows of a `TCH_INTERLEAVE` payload (R216). -/
def bitRows8 (rows : List Word) : Vector (BitVec 114) 8 := vecOf 8 (bitRow rows)

/-- `XCCH_DEINTERLEAVE` (R213). -/
def execXcchDeinterleave (ch : BitVec 8) (arg : BitVec 16) (rows : List Word) (s : State) : Result :=
  s.command .xcchDeinterleave ch
    [notGlobal ch, argUsed arg, (!(softRows4 rows).toList.all legalSoft, .badArgument)] <|
    .next (s.complete .xcchDeinterleave (packSoft (deinterleave 0 (softRows4 rows))))

/-- The block offset an `arg` gives, 0 where it is illegal (R120). -/
def offsetOf (arg : BitVec 16) : Nat := ((argOffset arg).getD .zero).toNat

/-- `TCH_INTERLEAVE` (R216). -/
def execTchInterleave (ch : BitVec 8) (arg : BitVec 16) (coded rows : List Word) (s : State) : Result :=
  s.command .tchInterleave ch [notGlobal ch, ((argOffset arg).isNone, .badArgument)] <|
    .next (s.complete .tchInterleave
      ((interleave (offsetOf arg) (unpackBits 456 coded) (bitRows8 rows)).toList.flatMap packBits))

/-- `TCH_DEINTERLEAVE` (R217): the 456 soft bits, then the eight rows after the erasure fill. -/
def execTchDeinterleave (ch : BitVec 8) (arg : BitVec 16) (rows : List Word) (s : State) : Result :=
  s.command .tchDeinterleave ch
    [notGlobal ch, ((argOffset arg).isNone, .badArgument), (!(softRows8 rows).toList.all legalSoft, .badArgument)] <|
    .next (s.complete .tchDeinterleave
      (packSoft (deinterleave (offsetOf arg) (softRows8 rows))
        ++ (eraseConsumed (offsetOf arg) (softRows8 rows)).toList.flatMap packSoft))

/-! ## Bursts -/

/-- `BURST_MAP` (R220). -/
def execBurstMap (ch : BitVec 8) (arg : BitVec 16) (row : List Word) (s : State) (P : Params := hardware) : Result :=
  s.command .burstMap ch [notGlobal ch, (argAbove arg 5, .badArgument)] <|
    .next (s.complete .burstMap (packBits (normalBurst P (unpackBits 114 row) (argHl arg) (argHu arg) (argTsc arg))))

/-- `BURST_UNMAP` (R221): the row, then a word with `Hl` in bits 15:8 and `Hu` in bits 7:0. -/
def execBurstUnmap (ch : BitVec 8) (arg : BitVec 16) (sym : List Word) (s : State) : Result :=
  s.command .burstUnmap ch [notGlobal ch, argUsed arg, (!legalSoft (unpackSoft 148 sym), .badArgument)] <|
    .next (s.complete .burstUnmap
      (packSoft (burstRow (unpackSoft 148 sym))
        ++ [(0#16 ++ burstHl (unpackSoft 148 sym)) ++ burstHu (unpackSoft 148 sym)]))

/-! ## TCH speech coding -/

/-- `TCH_SPEECH_ENCODE` (R331). -/
def execTchSpeechEncode (ch : BitVec 8) (arg : BitVec 16) (frame : List Word) (s : State) (P : Params := hardware) : Result :=
  s.command .tchSpeechEncode ch [notGlobal ch, argUsed arg] <|
    .next (s.complete .tchSpeechEncode (packBits (tchEncode P (unpackBits 260 frame))))

/-- The response words of `TCH_SPEECH_DECODE` (R332): `good | parityOK << 1 | tailOK << 2`, then the speech bits. -/
def tchDecodeWords (t : TchDecoded) : List Word :=
  (((0#29 ++ BitVec.ofBool t.tailOK) ++ BitVec.ofBool t.parityOK) ++ BitVec.ofBool t.good : BitVec 32) :: packBits t.s

/-- `TCH_SPEECH_DECODE` (R332). -/
def execTchSpeechDecode (ch : BitVec 8) (arg : BitVec 16) (soft : List Word) (s : State) (P : Params := hardware) : Result :=
  s.command .tchSpeechDecode ch [notGlobal ch, argUsed arg, (!legalSoft (unpackSoft 456 soft), .badArgument)] <|
    .next (s.complete .tchSpeechDecode (tchDecodeWords (tchDecode P (unpackSoft 456 soft))))

end Sys2Proof.Machine
end

