-- ==== Sys2Proof/Machine/Link.lean ====
section
/-! DEFINITION. The meanings of the L2 primitives (R279 to R283, R327): the XCCH and SACCH transmit pipeline, the FACCH
queue, opening and closing a channel. -/

namespace Sys2Proof.Machine

open Config (Params)

variable (P : Params)

/-- Steps 1 to 6 of the XCCH encoding pipeline on the encoder's buffers (R283). -/
def Encoder.codeFrame (e : Encoder) (f : BitVec 184) : Encoder :=
  { e with
    eU := xcchFill P e.eU f
    eC := convEncode (xcchFill P e.eU f)
    eI4 := xcchInterleave (convEncode (xcchFill P e.eU f)) }

/-- The four normal bursts of an XCCH block (R283 step 7): `Hl = Hu = 1`, training sequence `BCC`. -/
def controlBursts (rows : Vector (BitVec 114) 4) (bcc : BitVec 3) : List (BitVec 148) :=
  rows.toList.map fun row => normalBurst P row true true bcc

/-- `xcchSend` after the wait (R283): code the frame and send its four bursts. -/
def State.sendFrame (s : State) (ch : BitVec 8) (f : BitVec 184) : State :=
  (s.updEnc ch fun e => e.codeFrame P f).sendBursts P ch
    (controlBursts P ((s.getCtx ch).enc.codeFrame P f).eI4 s.csr.bcc)

/-- `xcchSend(c, f)` (R283), the frame being discarded where the encoder is closed. -/
def xcchSend (i : Instr) (ch : BitVec 8) (f : BitVec 184) (s : State) : Result :=
  if (s.getCtx ch).enc.active then
    s.waitToSend P i ((s.getCtx ch).resync P s.t0).enc.prevWT
      (((s.setCtx ch ((s.getCtx ch).resync P s.t0)).sendFrame P ch f).complete .l2Data [])
  else .next (s.complete .l2Data [])

/-- The FACCH enqueue (R327) where it does not overflow, the frame being discarded where the encoder is closed. -/
def facchEnqueue (ch : BitVec 8) (f : BitVec 184) (s : State) : Result :=
  if (s.getCtx ch).enc.active then
    .next ((s.updEnc ch fun e => { e with facchQ := e.facchQ ++ [f] }).complete .l2Data [])
  else .next (s.complete .l2Data [])

/-- The FACCH queue of an open TCH context is full (R327, R383 item 9). -/
def facchFull (c : Ctx) : Bool :=
  c.cfg.kind == .tch && c.enc.active && c.enc.facchQ.length == P.facchQDepth

/-- The kinds that take `L2_DATA` (R282). -/
def Kind.takesData : Kind → Bool
  | .xcch | .sacch | .tch => true
  | .none | .rach | .sch | .fcch => false

/-- `L2_DATA` (R282). -/
def execL2Data (ch : BitVec 8) (arg : BitVec 16) (frame : List Word) (s : State) (P : Params := hardware) : Result :=
  s.command .l2Data ch
    [noContext P ch, argUsed arg, s.notRunning ch, (!(s.getCtx ch).cfg.kind.takesData, .wrongKind),
      (facchFull P (s.getCtx ch), .queueOverflow)] <|
    if (s.getCtx ch).cfg.kind = .tch then facchEnqueue ch (unpackBits 184 frame) s
    else xcchSend P (.l2Data ch arg frame) ch (unpackBits 184 frame) s

/-- `L2_ESTABLISH` (R279). -/
def execL2Establish (ch : BitVec 8) (arg : BitVec 16) (s : State) (P : Params := hardware) : Result :=
  s.command .l2Establish ch [noContext P ch, (argAbove arg 1, .badArgument), s.notRunning ch] <|
    .next ((s.updCtx ch fun c => c.open P (argBit0 arg) s.nowTime s.nowMs s.csr).complete .l2Establish [])

/-- `L2_RELEASE` (R280). -/
def execL2Release (ch : BitVec 8) (arg : BitVec 16) (s : State) (P : Params := hardware) : Result :=
  s.command .l2Release ch [noContext P ch, argUsed arg, s.notRunning ch] <|
    .next ((s.updCtx ch fun c => c.closeEnc.closeDec s.nowMs s.csr).complete .l2Release [])

/-- `L2_ERROR` (R281). -/
def execL2Error (ch : BitVec 8) (arg : BitVec 16) (s : State) (P : Params := hardware) : Result :=
  s.command .l2Error ch [noContext P ch, argUsed arg, s.notRunning ch] <|
    .next ((s.updCtx ch Ctx.closeEnc).complete .l2Error [])

end Sys2Proof.Machine
end

