-- ==== Sys2Proof/Machine/Measure.lean ====
section
/-! DEFINITION. The meanings of the measurement commands (R353, R354, R364). -/

namespace Sys2Proof.Machine

open Config (Params)

variable (P : Params)

/-- The response words of `PHY_READ` (R364): the two sums, then `phyNew | phyCnt << 1`. -/
def phyWords (d : Decoder) : List Word :=
  [signedWord (ringSum d.rssi), signedWord (ringSum d.te), (0#29 ++ d.phyCnt) ++ BitVec.ofBool d.phyNew]

/-- `PHY_READ` (R364). -/
def execPhyRead (ch : BitVec 8) (arg : BitVec 16) (s : State) (P : Params := hardware) : Result :=
  s.command .phyRead ch
    [noContext P ch, argUsed arg, s.notRunning ch,
      (!((s.getCtx ch).cfg.kind.hasRing && (s.getCtx ch).hasDecoder), .wrongKind)] <|
    .next ((s.updDec ch fun d => { d with phyNew := false }).complete .phyRead (phyWords (s.getCtx ch).dec))

/-- `FER_GOOD` (R353). -/
def execFerGood (ch : BitVec 8) (arg : BitVec 16) (s : State) (P : Params := hardware) : Result :=
  s.command .ferGood ch [noContext P ch, argUsed arg, s.notRunning ch, (!(s.getCtx ch).hasDecoder, .wrongKind)] <|
    .next ((s.updDec ch (Decoder.countGood P)).complete .ferGood [])

/-- `FER_BAD` (R354). -/
def execFerBad (ch : BitVec 8) (arg : BitVec 16) (s : State) (P : Params := hardware) : Result :=
  s.command .ferBad ch [noContext P ch, argUsed arg, s.notRunning ch, (!(s.getCtx ch).hasDecoder, .wrongKind)] <|
    .next ((s.updDec ch (Decoder.countBad P)).complete .ferBad [])

end Sys2Proof.Machine
end

