-- ==== Sys2Proof/Machine/Receive.lean ====
section
/-! DEFINITION. The meanings of the receive commands: `RX_BURST` with the XCCH, SACCH and TCH decoding pipelines (R285,
R286, R290, R328 to R330) and the RACH queue (R287), and `RACH_SERVICE` (R288, R289). -/

namespace Sys2Proof.Machine

open Config (Params)

variable (P : Params)

/-- The burst index inside an interleaver block (R245): `reverse(RXMAP, FN) mod k`. -/
def burstIndex (c : Ctx) (fn : Nat) (k : Nat) : Nat :=
  match c.cfg.rxmap with
  | none => 0
  | some M => (reverse M fn % k).toNat

/-- The demux check of R246 fails. -/
def demuxFails (c : Ctx) (t : Time) : Bool :=
  match c.cfg.rxmap with
  | none => true
  | some M => t.tn != c.cfg.tn || decide (reverse M t.fn < 0)

/-! ## Control-channel blocks -/

/-- The uncoded block decoded from `dC`, its parity inverted (R164, R285). -/
def Decoder.block (d : Decoder) : BitVec 228 := invertParity (P.vd 228 d.dC)

/-- Decode the control-channel block in `dC` (R285, R330): `dU`, the FER and the timers. -/
def Decoder.decodeBlock (d : Decoder) (nowMs : Word) (r : Csr) : Decoder :=
  if xcchValid P (d.block P) then (({ d with dU := undoD (d.block P) } : Decoder).countGood P).goodFrame nowMs r
  else ({ d with dU := d.block P } : Decoder).countBad P

/-- `sacchHeader(c)` (R290). -/
def Decoder.sacchHeader (d : Decoder) : Decoder :=
  { d with
    actualMSPower := slice d.dU 3 5
    actualMSTiming := if peek d.dU 9 7 ≤ 63 then slice d.dU 9 7 else d.actualMSTiming }

/-- The `L2_FRAME` record of a decoder (R126, R294). -/
def frameRecord (ch : BitVec 8) (t : Time) (d : Decoder) : List Word :=
  upRecord 0x10#8 ch (timeWord t :: d.meas :: d.fer :: packBits (slice d.dU 0 184))

/-- The `SACCH_FRAME` record of a decoder (R126, R294). -/
def sacchRecord (ch : BitVec 8) (t : Time) (d : Decoder) : List Word :=
  upRecord 0x11#8 ch
    (timeWord t :: d.meas :: d.fer :: (((0#19 ++ d.actualMSPower) ++ 0#1) ++ d.actualMSTiming : BitVec 32)
      :: packBits (slice d.dU 16 168))

/-- The end of an XCCH or SACCH block (R285): deinterleave, decode, and on success the record. -/
def State.xcchBlockEnd (s : State) (ch : BitVec 8) (t : Time) : State :=
  let d := (s.getCtx ch).dec
  let d1 : Decoder := { d with dC := deinterleave 0 d.dI4, dI4 := eraseConsumed 0 d.dI4 }
  let d2 := d1.decodeBlock P s.nowMs s.csr
  if xcchValid P (d1.block P) then
    if (s.getCtx ch).cfg.kind = .sacch then
      (s.updDec ch fun _ => d2.sacchHeader).emitUp (sacchRecord ch t d2.sacchHeader)
    else (s.updDec ch fun _ => d2).emitUp (frameRecord ch t d2)
  else s.updDec ch fun _ => d2

/-- The part of `xcchReceive` (R285) before the block end: the ring and the row. -/
def Decoder.storeRow4 (d : Decoder) (B : Nat) (b : RxBurst) : Decoder :=
  { d.ringUpdate b.rssi b.te with dI4 := d.dI4.setIfInBounds B (burstRow b.sym) }

/-- `xcchReceive(c, b)` (R285). -/
def State.xcchReceive (s : State) (ch : BitVec 8) (b : RxBurst) : State :=
  let B := burstIndex (s.getCtx ch) b.time.fn 4
  let s1 := s.updDec ch fun d => d.storeRow4 B b
  if B = 3 then s1.xcchBlockEnd P ch b.time else s1

/-! ## TCH blocks -/

/-- The `TCH_BAD` record of a decoder (R126, R335). -/
def tchBadRecord (ch : BitVec 8) (t : Time) (d : Decoder) : List Word :=
  upRecord 0x13#8 ch (timeWord t :: d.meas :: d.fer :: packBits d.prevGood)

/-- The `TCH_SPEECH` record of a decoder (R126, R294). -/
def tchSpeechRecord (ch : BitVec 8) (t : Time) (d : Decoder) (speech : BitVec 260) : List Word :=
  upRecord 0x12#8 ch (timeWord t :: d.meas :: d.fer :: packBits speech)

/-- A stolen block (R330): the FACCH frame if it is valid, then a `TCH_BAD` record. -/
def State.facchBlock (s : State) (ch : BitVec 8) (t : Time) : State :=
  let d := (s.getCtx ch).dec
  let d1 := d.decodeBlock P s.nowMs s.csr
  let s1 := s.updDec ch fun _ => d1
  (if xcchValid P (d.block P) then s1.emitUp (frameRecord ch t d1) else s1).emitUp (tchBadRecord ch t d1)

/-- Decode the speech block in `dC` (R321, R330): the buffers, `prevGood`, the FER and the timers. -/
def Decoder.decodeSpeech (d : Decoder) (nowMs : Word) (r : Csr) : Decoder :=
  let x := tchDecode P d.dC
  let d1 : Decoder := { d with dTU := x.dTU, dTD := x.dTD }
  if x.good then (({ d1 with prevGood := x.s } : Decoder).countGood P).goodFrame nowMs r else d1.countBad P

/-- A speech block (R330). -/
def State.speechBlock (s : State) (ch : BitVec 8) (t : Time) : State :=
  let d := (s.getCtx ch).dec
  let d1 := d.decodeSpeech P s.nowMs s.csr
  let s1 := s.updDec ch fun _ => d1
  if (tchDecode P d.dC).good then s1.emitUp (tchSpeechRecord ch t d1 (tchDecode P d.dC).s)
  else s1.emitUp (tchBadRecord ch t d1)

/-- The block offset whose block the burst index `B` ends (R329). -/
def endOffset (B : Nat) : Offset := if B = 3 then .four else .zero

/-- `tchBlockEnd(c, B, time)` (R329). -/
def State.tchBlockEnd (s : State) (ch : BitVec 8) (B : Nat) (t : Time) : State :=
  let d := (s.getCtx ch).dec
  let o := endOffset B
  let s1 := s.updDec ch fun d => { d with dC := deinterleave o.toNat d.dI8, dI8 := eraseConsumed o.toNat d.dI8 }
  if P.facchDetect o.toNat d.dHl d.dHu then s1.facchBlock P ch t else s1.speechBlock P ch t

/-- The part of `tchReceive` (R328) before the block end: the ring, the row and the stealing flags. -/
def Decoder.storeRow8 (d : Decoder) (B : Nat) (b : RxBurst) : Decoder :=
  { d.ringUpdate b.rssi b.te with
    dI8 := d.dI8.setIfInBounds B (burstRow b.sym)
    dHl := d.dHl.setIfInBounds B (burstHl b.sym)
    dHu := d.dHu.setIfInBounds B (burstHu b.sym) }

/-- `tchReceive(c, b)` (R328). -/
def State.tchReceive (s : State) (ch : BitVec 8) (b : RxBurst) : State :=
  let B := burstIndex (s.getCtx ch) b.time.fn 8
  let s1 := s.updDec ch fun d => d.storeRow8 B b
  if B % 4 = 3 then s1.tchBlockEnd P ch B b.time else s1

/-! ## RACH -/

/-- `rachEnqueue(c, b)` (R287). -/
def State.rachEnqueue (s : State) (ch : BitVec 8) (b : RxBurst) : State :=
  if (s.getCtx ch).dec.rachQ.length < P.rachQDepth then
    s.updDec ch fun d => { d with rachQ := d.rachQ ++ [b] }
  else { s with csr := { s.csr with rachDrops := s.csr.rachDrops + 1 } }

/-- The 18 uncoded bits decoded from a RACH burst (R289). -/
def rachBits (b : RxBurst) : BitVec 18 := P.vd 18 (rachSymbols b.sym)

/-- A RACH burst is a valid access (R170, R289). -/
def rachValid (b : RxBurst) (bsic : BitVec 6) : Bool := rachTailOK (rachBits P b) && rachParityOK P (rachBits P b) bsic

/-- The `RACH_ACCESS` record (R126, R289). -/
def rachRecord (ch : BitVec 8) (b : RxBurst) (fer : Word) : List Word :=
  upRecord 0x14#8 ch
    [timeWord b.time, (b.rssi ++ rachRA (rachBits P b)) ++ BitVec.ofNat 8 (timingAdvance b.te), fer]

/-- The response word of `RACH_SERVICE` for a dequeued burst (R288). -/
def rachServiceWord (b : RxBurst) (valid : Bool) : Word :=
  if valid then
    (((0#8 ++ BitVec.ofNat 8 (timingAdvance b.te)) ++ rachRA (rachBits P b)) ++ 3#8 : BitVec 32)
  else 1#32

/-- `rachDecode(c, b)` (R289): the FER, and the record of a valid access. -/
def State.rachDecode (s : State) (ch : BitVec 8) (b : RxBurst) : State :=
  if rachValid P b s.csr.bsicField then
    (s.updDec ch (Decoder.countGood P)).emitUp (rachRecord P ch b ((s.getCtx ch).dec.countGood P).fer)
  else s.updDec ch (Decoder.countBad P)

/-- `RACH_SERVICE` (R288). -/
def execRachService (ch : BitVec 8) (arg : BitVec 16) (s : State) (P : Params := hardware) : Result :=
  s.command .rachService ch
    [noContext P ch, argUsed arg, s.notRunning ch, ((s.getCtx ch).cfg.kind != .rach, .wrongKind)] <|
    match (s.getCtx ch).dec.rachQ with
    | [] => .next (s.complete .rachService [0#32])
    | b :: q =>
      .next (((s.updDec ch fun d => { d with rachQ := q }).rachDecode P ch b).complete .rachService
        [rachServiceWord P b (rachValid P b s.csr.bsicField)])

/-! ## `RX_BURST` -/

/-- The burst record of an `RX_BURST` payload (R119). -/
def rxBurstOf (time meas : Word) (sym : List Word) : RxBurst :=
  { time := timeOf time, rssi := measRssi meas, te := measTe meas, sym := unpackSoft 148 sym }

/-- What an accepted burst does (R286). -/
def State.acceptBurst (s : State) (ch : BitVec 8) (b : RxBurst) : State :=
  match (s.getCtx ch).cfg.kind with
  | .rach => s.rachEnqueue P ch b
  | .xcch | .sacch => s.xcchReceive P ch b
  | .tch => s.tchReceive P ch b
  | .none | .sch | .fcch => s

/-- `RX_BURST` (R286). -/
def execRxBurst (ch : BitVec 8) (arg : BitVec 16) (time meas : Word) (sym : List Word) (s : State)
    (P : Params := hardware) : Result :=
  s.command .rxBurst ch
    [noContext P ch, argUsed arg, (!legalTime P time, .badArgument), (!legalSoft (unpackSoft 148 sym), .badArgument),
      s.notRunning ch, (!(s.getCtx ch).hasDecoder, .wrongKind),
      (demuxFails (s.getCtx ch) (timeOf time), .demuxMisconfig)] <|
    if (s.getCtx ch).dec.active s.nowMs then
      .next ((s.acceptBurst P ch (rxBurstOf time meas sym)).complete .rxBurst [])
    else .next (s.complete .rxBurst [])

end Sys2Proof.Machine
end

