-- ==== Sys2Proof/Machine/System.lean ====
section
/-! DEFINITION. The meanings of the system and context-management commands (R270 to R276). -/

namespace Sys2Proof.Machine

open Config (Params)

variable (P : Params)

/-- `NOP` (R274). -/
def execNop (ch : BitVec 8) (arg : BitVec 16) (s : State) : Result :=
  s.command .nop ch [notGlobal ch, argUsed arg] <| .next (s.complete .nop [])

/-- `RESET` (R276): it executes also in the fault state, and ignores `ch` and `arg`. -/
def execReset (_ch : BitVec 8) (_arg : BitVec 16) (s : State) (P : Params := hardware) : Result :=
  .next ((s.resetEffect P).complete .reset [])

/-- `CSR_WRITE` (R270). -/
def execCsrWrite (ch : BitVec 8) (arg : BitVec 16) (v : Word) (s : State) (P : Params := hardware) : Result :=
  s.command .csrWrite ch [notGlobal ch, ((s.csr.write P arg v).isNone, .badArgument)] <|
    .next (({ s with csr := (s.csr.write P arg v).getD s.csr } : State).complete .csrWrite [])

/-- `CSR_READ` (R271): it executes also in the fault state, where one that would fault is blocked instead (R385). -/
def execCsrRead (ch : BitVec 8) (arg : BitVec 16) (s : State) (P : Params := hardware) : Result :=
  match firstFault [notGlobal ch, ((s.csrRead P arg).isNone, .badArgument)] with
  | none => .next (s.complete .csrRead [(s.csrRead P arg).getD 0])
  | some f => if s.faulted then .next (s.blocked Opcode.csrRead.code) else .next (s.takeFault Opcode.csrRead.code ch f)

/-- The context that `CH_CONFIG` installs, before `reseat` (R272). -/
def configured (kind : Kind) (w0 : Word) (tx rx : MapRecord) : Ctx :=
  { Ctx.reset with cfg :=
    { kind := kind, tn := configTn w0, c0 := configC0 w0, arfcn := configArfcn w0
      txmap := recordMapping tx, rxmap := recordMapping rx, running := true } }

/-- The kind a `CH_CONFIG` payload configures, if its kind is not reserved and its mappings are well-formed (R244,
R272). -/
def configurable (w0 : Word) (tx rx : MapRecord) : Option Kind :=
  match configKind w0 with
  | none => none
  | some k => if mappingsWf P k (configTn w0) (recordMapping tx) (recordMapping rx) then some k else none

/-- `CH_CONFIG` (R272). -/
def execChConfig (ch : BitVec 8) (arg : BitVec 16) (w0 : Word) (tx rx : MapRecord) (s : State)
    (P : Params := hardware) : Result :=
  s.command .chConfig ch
    [noContext P ch, argUsed arg, (!(legalConfigWord w0 && legalRecord tx && legalRecord rx), .badArgument),
      ((s.getCtx ch).cfg.running || (configurable P w0 tx rx).isNone, .configError)] <|
    .next ((s.setCtx ch ((configured ((configurable P w0 tx rx).getD .none) w0 tx rx).reseat P s.nowTime)).complete
      .chConfig [])

/-- `CH_DECONFIG` (R273). -/
def execChDeconfig (ch : BitVec 8) (arg : BitVec 16) (s : State) (P : Params := hardware) : Result :=
  s.command .chDeconfig ch [noContext P ch, argUsed arg] <| .next ((s.setCtx ch .reset).complete .chDeconfig [])

/-- `CH_STATUS` (R275). -/
def execChStatus (ch : BitVec 8) (arg : BitVec 16) (s : State) (P : Params := hardware) : Result :=
  s.command .chStatus ch [noContext P ch, argUsed arg] <|
    .next (s.complete .chStatus (statusWords (s.getCtx ch) s.nowMs))

end Sys2Proof.Machine
end

