-- ==== Sys2Proof/Machine/TimeOps.lean ====
section
/-! DEFINITION. The meanings of the TDMA arithmetic and mapping commands (R251 to R255). -/

namespace Sys2Proof.Machine

open Config (Params)

variable (P : Params)

/-- The check that a payload word is a legal time word (R116). -/
def notTime (w : Word) : Bool × FaultCode := (!legalTime P w, .badArgument)

/-- `FN_ADD` (R251). -/
def execFnAdd (ch : BitVec 8) (arg : BitVec 16) (t k : Word) (s : State) (P : Params := hardware) : Result :=
  s.command .fnAdd ch [notGlobal ch, argUsed arg, notTime P t] <|
    .next (s.complete .fnAdd [timeWord ⟨fnAdd P (timeOf t).fn k.toInt, (timeOf t).tn⟩])

/-- `FN_DELTA` (R252). -/
def execFnDelta (ch : BitVec 8) (arg : BitVec 16) (a b : Word) (s : State) (P : Params := hardware) : Result :=
  s.command .fnDelta ch [notGlobal ch, argUsed arg, notTime P a, notTime P b] <|
    .next (s.complete .fnDelta [signedWord (fnDelta P (timeOf a).fn (timeOf b).fn)])

/-- `TIME_CMP` (R253). -/
def execTimeCmp (ch : BitVec 8) (arg : BitVec 16) (t1 t2 : Word) (s : State) (P : Params := hardware) : Result :=
  s.command .timeCmp ch [notGlobal ch, argUsed arg, notTime P t1, notTime P t2] <|
    .next (s.complete .timeCmp [signedWord (timeCmp P (timeOf t1) (timeOf t2))])

/-- The mapping that `dir` selects (R254): 0 `TXMAP`, 1 `RXMAP`. -/
def Ctx.mapping (c : Ctx) (dir : Bool) : Option Mapping := if dir then c.cfg.rxmap else c.cfg.txmap

/-- The checks of `MAP_REVERSE` and `MAP_ROLL` (R254, R255). -/
def State.mapChecks (s : State) (ch : BitVec 8) (arg : BitVec 16) (t : Word) : List (Bool × FaultCode) :=
  [noContext P ch, (argAbove arg 1, .badArgument), notTime P t, s.notRunning ch,
    (((s.getCtx ch).mapping (argBit0 arg)).isNone, .wrongKind)]

/-- The response word of `MAP_REVERSE` (R254). -/
def reverseWord (M : Option Mapping) (t : Time) : Word :=
  match M with
  | none => 0#32
  | some M => signedWord (reverse M t.fn)

/-- `MAP_REVERSE` (R254). -/
def execMapReverse (ch : BitVec 8) (arg : BitVec 16) (t : Word) (s : State) (P : Params := hardware) : Result :=
  s.command .mapReverse ch (s.mapChecks P ch arg t) <|
    .next (s.complete .mapReverse [reverseWord ((s.getCtx ch).mapping (argBit0 arg)) (timeOf t)])

/-- The response word of `MAP_ROLL` (R255). -/
def rollWord (M : Option Mapping) (t : Time) (k : Nat) : Word :=
  match M with
  | none => 0#32
  | some M => timeWord (rollTo P t (frameMapping M k) M.p.toNat)

/-- `MAP_ROLL` (R255). -/
def execMapRoll (ch : BitVec 8) (arg : BitVec 16) (t k : Word) (s : State) (P : Params := hardware) : Result :=
  s.command .mapRoll ch (s.mapChecks P ch arg t) <|
    .next (s.complete .mapRoll [rollWord P ((s.getCtx ch).mapping (argBit0 arg)) (timeOf t) k.toNat])

end Sys2Proof.Machine
end

