-- ==== Sys2Proof/Machine/Transmit.lean ====
section
/-! DEFINITION. The meanings of the transmit-scheduling commands (R256, R257, R291 to R293, R322 to R326). -/

namespace Sys2Proof.Machine

open Config (Params)

variable (P : Params)

/-- The kind check of a command that needs kind `k` (R383 item 8). -/
def State.notKind (s : State) (ch : BitVec 8) (k : Kind) : Bool × FaultCode :=
  ((s.getCtx ch).cfg.kind != k, .wrongKind)

/-! ## Idle fill, SCH, FCCH -/

/-- One iteration of idle fill (R293): the dummy burst on C0, nothing elsewhere, then a roll forward. -/
def State.idleStep (s : State) (ch : BitVec 8) : State :=
  if (s.getCtx ch).cfg.c0 then s.sendBurst P ch P.dummyBurst else s.rollForward P ch

/-- `numFrames m` of the downlink mapping of a context (R293). -/
def Ctx.txM (c : Ctx) : Nat := (c.cfg.txmap.map Mapping.m).getD 0

/-- `n` iterations of idle fill (R293). -/
def State.idleSteps (s : State) (ch : BitVec 8) : Nat → State
  | 0 => s
  | n + 1 => (s.idleSteps ch n).idleStep P ch

/-- `IDLE_FILL` (R293). -/
def execIdleFill (ch : BitVec 8) (arg : BitVec 16) (s : State) (P : Params := hardware) : Result :=
  s.command .idleFill ch
    [noContext P ch, argUsed arg, s.notRunning ch, (!(s.getCtx ch).cfg.kind.hasRing, .wrongKind)] <|
    .next ((s.idleSteps P ch (s.getCtx ch).txM).complete .idleFill [])

/-- Resync, wait, then send one burst (R291, R292); nothing where the encoder is closed. -/
def sendOne (o : Opcode) (i : Instr) (ch : BitVec 8) (bits : BitVec 148) (s : State) : Result :=
  if (s.getCtx ch).enc.active then
    s.waitToSend P i ((s.getCtx ch).resync P s.t0).enc.prevWT
      (((s.setCtx ch ((s.getCtx ch).resync P s.t0)).sendBurst P ch bits).complete o [])
  else .next (s.complete o [])

/-- `SCH_SEND` (R291). -/
def execSchSend (ch : BitVec 8) (arg : BitVec 16) (data : Word) (s : State) (P : Params := hardware) : Result :=
  s.command .schSend ch [noContext P ch, argUsed arg, s.notRunning ch, s.notKind ch .sch] <|
    sendOne P .schSend (.schSend ch arg data) ch (schBurst P (convEncode (schUncoded P (unpackBits 25 [data])))) s

/-- `FCCH_SEND` (R292). -/
def execFcchSend (ch : BitVec 8) (arg : BitVec 16) (s : State) (P : Params := hardware) : Result :=
  s.command .fcchSend ch [noContext P ch, argUsed arg, s.notRunning ch, s.notKind ch .fcch] <|
    sendOne P .fcchSend (.fcchSend ch arg) ch fcchBurst s

/-! ## Traffic slots -/

/-- The speech latency cap (R322): drop the oldest frames while there are more than `cap`. -/
def latencyCap (cap : Nat) (q : List (BitVec 260)) : List (BitVec 260) := q.drop (q.length - cap)

/-- Compose the block of a slot (R323, R324): FACCH first, then speech, then the filler. -/
def Encoder.composeSlot (e : Encoder) : Encoder :=
  match e.facchQ with
  | f :: fs =>
    { e with
      facchQ := fs, curFACCH := true, speechQ := []
      eU := xcchFill P e.eU f, eC := convEncode (xcchFill P e.eU f) }
  | [] =>
    match e.speechQ with
    | x :: xs =>
      { e with
        speechQ := xs, curFACCH := false
        tD := tchReorder P x, tU := tchFold P (tchReorder P x), eC := tchEncode P x }
    | [] => { e with curFACCH := false, eC := P.tchFiller }

/-- Interleave the slot's block into the diagonal rows (R324). -/
def Encoder.interleaveSlot (e : Encoder) : Encoder := { e with eI8 := interleave e.offset.toNat e.eC e.eI8 }

/-- The four bursts of a slot (R324, R325): rows `offset … offset+3`, `Hl = prevFACCH`, `Hu = curFACCH`. -/
def Encoder.slotBursts (e : Encoder) (bcc : BitVec 3) : List (BitVec 148) :=
  (List.range 4).map fun B => normalBurst P (e.eI8.getD (e.offset.toNat + B) 0) e.prevFACCH e.curFACCH bcc

/-- After the slot (R324): `prevFACCH <- curFACCH`, the offset toggles. -/
def Encoder.endSlot (e : Encoder) : Encoder := { e with prevFACCH := e.curFACCH, offset := e.offset.toggle }

/-- `TCH_SEND_SLOT` after the wait (R324). -/
def State.sendSlot (s : State) (ch : BitVec 8) : State :=
  let s1 := s.updEnc ch fun e => (e.composeSlot P).interleaveSlot
  (s1.sendBursts P ch ((s1.getCtx ch).enc.slotBursts P s1.csr.bcc)).updEnc ch Encoder.endSlot

/-- The context with the latency cap applied (R322). -/
def Ctx.capSpeech (c : Ctx) (cap : Word) : Ctx :=
  { c with enc := { c.enc with speechQ := latencyCap cap.toNat c.enc.speechQ } }

/-- `TCH_SEND_SLOT` (R324). -/
def execTchSendSlot (ch : BitVec 8) (arg : BitVec 16) (s : State) (P : Params := hardware) : Result :=
  s.command .tchSendSlot ch [noContext P ch, argUsed arg, s.notRunning ch, s.notKind ch .tch] <|
    if (s.getCtx ch).enc.active then
      let c1 := ((s.getCtx ch).capSpeech s.csr.maxSpeechLatency).resync P s.t0
      s.waitToSend P (.tchSendSlot ch arg) c1.enc.prevWT (((s.setCtx ch c1).sendSlot P ch).complete .tchSendSlot [])
    else .next (s.complete .tchSendSlot [])

/-- Queue a speech frame (R326): onto a full queue, the oldest is dropped first. -/
def pushSpeech (q : List (BitVec 260)) (x : BitVec 260) : List (BitVec 260) :=
  (if q.length = P.speechQDepth then q.drop 1 else q) ++ [x]

/-- `TCH_SPEECH_PUSH` (R326). -/
def execTchSpeechPush (ch : BitVec 8) (arg : BitVec 16) (frame : List Word) (s : State) (P : Params := hardware) : Result :=
  s.command .tchSpeechPush ch [noContext P ch, argUsed arg, s.notRunning ch, s.notKind ch .tch] <|
    if (s.getCtx ch).enc.active then
      .next ((s.updEnc ch fun e => { e with speechQ := pushSpeech P e.speechQ (unpackBits 260 frame) }).complete
        .tchSpeechPush [])
    else .next (s.complete .tchSpeechPush [])

/-! ## Schedule -/

/-- The check that the kind has an encoder (R256). -/
def State.noEncoder (s : State) (ch : BitVec 8) : Bool × FaultCode :=
  (!(s.getCtx ch).cfg.kind.hasEncoder, .wrongKind)

/-- `RESYNC` (R256). -/
def execResync (ch : BitVec 8) (arg : BitVec 16) (s : State) (P : Params := hardware) : Result :=
  s.command .resync ch [noContext P ch, argUsed arg, s.notRunning ch, s.noEncoder ch] <|
    .next ((s.updCtx ch fun c => c.resync P s.nowTime).complete .resync [])

/-- `WAIT_TO_SEND` (R257). -/
def execWaitToSend (ch : BitVec 8) (arg : BitVec 16) (s : State) (P : Params := hardware) : Result :=
  s.command .waitToSend ch [noContext P ch, argUsed arg, s.notRunning ch, s.noEncoder ch] <|
    s.waitToSend P (.waitToSend ch arg) (s.getCtx ch).enc.prevWT (s.complete .waitToSend [])

end Sys2Proof.Machine
end

