-- ==== Sys2Proof/Machine/Dispatch.lean ====
section
/-! DEFINITION. Which meaning each command has. -/

namespace Sys2Proof.Machine

def exec (i : Instr) (s : State) : Host.Outcome State Fault Refusal :=
  match i with
  | .nop ch arg => Sys2Proof.Machine.execNop ch arg s
  | .reset ch arg => Sys2Proof.Machine.execReset ch arg s
  | .csrWrite ch arg v => Sys2Proof.Machine.execCsrWrite ch arg v s
  | .csrRead ch arg => Sys2Proof.Machine.execCsrRead ch arg s
  | .chConfig ch arg w0 tx rx => Sys2Proof.Machine.execChConfig ch arg w0 tx rx s
  | .chDeconfig ch arg => Sys2Proof.Machine.execChDeconfig ch arg s
  | .chStatus ch arg => Sys2Proof.Machine.execChStatus ch arg s
  | .lsb8msb ch arg bits => Sys2Proof.Machine.execLsb8msb ch arg bits s
  | .parEncode ch arg data => Sys2Proof.Machine.execParEncode ch arg data s
  | .parSyndrome ch arg codeword => Sys2Proof.Machine.execParSyndrome ch arg codeword s
  | .rachCheck ch arg u => Sys2Proof.Machine.execRachCheck ch arg u s
  | .xcchCode ch arg frame => Sys2Proof.Machine.execXcchCode ch arg frame s
  | .xcchDecode ch arg soft => Sys2Proof.Machine.execXcchDecode ch arg soft s
  | .schCode ch arg data => Sys2Proof.Machine.execSchCode ch arg data s
  | .convEncode ch arg bits => Sys2Proof.Machine.execConvEncode ch arg bits s
  | .viterbiDecode ch arg soft => Sys2Proof.Machine.execViterbiDecode ch arg soft s
  | .xcchInterleave ch arg coded => Sys2Proof.Machine.execXcchInterleave ch arg coded s
  | .xcchDeinterleave ch arg rows => Sys2Proof.Machine.execXcchDeinterleave ch arg rows s
  | .tchInterleave ch arg coded rows => Sys2Proof.Machine.execTchInterleave ch arg coded rows s
  | .tchDeinterleave ch arg rows => Sys2Proof.Machine.execTchDeinterleave ch arg rows s
  | .burstMap ch arg row => Sys2Proof.Machine.execBurstMap ch arg row s
  | .burstUnmap ch arg sym => Sys2Proof.Machine.execBurstUnmap ch arg sym s
  | .tchSpeechEncode ch arg frame => Sys2Proof.Machine.execTchSpeechEncode ch arg frame s
  | .tchSpeechDecode ch arg soft => Sys2Proof.Machine.execTchSpeechDecode ch arg soft s
  | .l2Data ch arg frame => Sys2Proof.Machine.execL2Data ch arg frame s
  | .l2Establish ch arg => Sys2Proof.Machine.execL2Establish ch arg s
  | .l2Release ch arg => Sys2Proof.Machine.execL2Release ch arg s
  | .l2Error ch arg => Sys2Proof.Machine.execL2Error ch arg s
  | .rxBurst ch arg time meas sym => Sys2Proof.Machine.execRxBurst ch arg time meas sym s
  | .rachService ch arg => Sys2Proof.Machine.execRachService ch arg s
  | .idleFill ch arg => Sys2Proof.Machine.execIdleFill ch arg s
  | .schSend ch arg data => Sys2Proof.Machine.execSchSend ch arg data s
  | .fcchSend ch arg => Sys2Proof.Machine.execFcchSend ch arg s
  | .tchSendSlot ch arg => Sys2Proof.Machine.execTchSendSlot ch arg s
  | .tchSpeechPush ch arg frame => Sys2Proof.Machine.execTchSpeechPush ch arg frame s
  | .resync ch arg => Sys2Proof.Machine.execResync ch arg s
  | .waitToSend ch arg => Sys2Proof.Machine.execWaitToSend ch arg s
  | .phyRead ch arg => Sys2Proof.Machine.execPhyRead ch arg s
  | .ferGood ch arg => Sys2Proof.Machine.execFerGood ch arg s
  | .ferBad ch arg => Sys2Proof.Machine.execFerBad ch arg s
  | .fnAdd ch arg t k => Sys2Proof.Machine.execFnAdd ch arg t k s
  | .fnDelta ch arg a b => Sys2Proof.Machine.execFnDelta ch arg a b s
  | .timeCmp ch arg t1 t2 => Sys2Proof.Machine.execTimeCmp ch arg t1 t2 s
  | .mapReverse ch arg t => Sys2Proof.Machine.execMapReverse ch arg t s
  | .mapRoll ch arg t k => Sys2Proof.Machine.execMapRoll ch arg t k s

end Sys2Proof.Machine
end

