-- ==== Sys2Proof/Machine/Block.lean ====
section
/-! DEFINITION. The block as a function of its parameters (R6: 'a model takes each as an argument'). `exec`, `step` and
`State.reset` are these at `hardware`, the values this spec's hardware takes. -/

namespace Sys2Proof.Machine

open Config (Params)

/-- What the spec binds the parameters by: `VD` obeys law 1 of R196, every frame number fits the 22 bits of a time word (R116),
`m` its 8 bits (R42), and `totalBursts` the 32 bits of its field (R44). -/
def LawfulParams (P : Params) : Prop :=
  CleanCodewordLaw P.vd ∧ 1 ≤ P.hyperframe ∧ P.hyperframe ≤ 2 ^ 22 ∧ P.maxM < 2 ^ 8 ∧ P.tbWidth ≤ 32

/-- The parameters a block may have. -/
abbrev BlockParams := { P : Params // LawfulParams P }

/-- The meaning of every command on a block with parameters `P`. -/
def execFor (P : BlockParams) (i : Instr) (s : State) : Result :=
  match i with
  | .nop ch arg => execNop ch arg s
  | .reset ch arg => execReset ch arg s P
  | .csrWrite ch arg v => execCsrWrite ch arg v s P
  | .csrRead ch arg => execCsrRead ch arg s P
  | .chConfig ch arg w0 tx rx => execChConfig ch arg w0 tx rx s P
  | .chDeconfig ch arg => execChDeconfig ch arg s P
  | .chStatus ch arg => execChStatus ch arg s P
  | .lsb8msb ch arg bits => execLsb8msb ch arg bits s
  | .parEncode ch arg data => execParEncode ch arg data s P
  | .parSyndrome ch arg codeword => execParSyndrome ch arg codeword s P
  | .rachCheck ch arg u => execRachCheck ch arg u s P
  | .xcchCode ch arg frame => execXcchCode ch arg frame s P
  | .xcchDecode ch arg soft => execXcchDecode ch arg soft s P
  | .schCode ch arg data => execSchCode ch arg data s P
  | .convEncode ch arg bits => execConvEncode ch arg bits s
  | .viterbiDecode ch arg soft => execViterbiDecode ch arg soft s P
  | .xcchInterleave ch arg coded => execXcchInterleave ch arg coded s
  | .xcchDeinterleave ch arg rows => execXcchDeinterleave ch arg rows s
  | .tchInterleave ch arg coded rows => execTchInterleave ch arg coded rows s
  | .tchDeinterleave ch arg rows => execTchDeinterleave ch arg rows s
  | .burstMap ch arg row => execBurstMap ch arg row s P
  | .burstUnmap ch arg sym => execBurstUnmap ch arg sym s
  | .tchSpeechEncode ch arg frame => execTchSpeechEncode ch arg frame s P
  | .tchSpeechDecode ch arg soft => execTchSpeechDecode ch arg soft s P
  | .l2Data ch arg frame => execL2Data ch arg frame s P
  | .l2Establish ch arg => execL2Establish ch arg s P
  | .l2Release ch arg => execL2Release ch arg s P
  | .l2Error ch arg => execL2Error ch arg s P
  | .rxBurst ch arg time meas sym => execRxBurst ch arg time meas sym s P
  | .rachService ch arg => execRachService ch arg s P
  | .idleFill ch arg => execIdleFill ch arg s P
  | .schSend ch arg data => execSchSend ch arg data s P
  | .fcchSend ch arg => execFcchSend ch arg s P
  | .tchSendSlot ch arg => execTchSendSlot ch arg s P
  | .tchSpeechPush ch arg frame => execTchSpeechPush ch arg frame s P
  | .resync ch arg => execResync ch arg s P
  | .waitToSend ch arg => execWaitToSend ch arg s P
  | .phyRead ch arg => execPhyRead ch arg s P
  | .ferGood ch arg => execFerGood ch arg s P
  | .ferBad ch arg => execFerBad ch arg s P
  | .fnAdd ch arg t k => execFnAdd ch arg t k s P
  | .fnDelta ch arg a b => execFnDelta ch arg a b s P
  | .timeCmp ch arg t1 t2 => execTimeCmp ch arg t1 t2 s P
  | .mapReverse ch arg t => execMapReverse ch arg t s P
  | .mapRoll ch arg t k => execMapRoll ch arg t k s P

/-- One step of a block with parameters `P`. -/
def stepFor (P : BlockParams) (s : State) : Result := machineTurn P (execFor P) s

end Sys2Proof.Machine
end

