-- ==== Sys2Proof/Machine/Step.lean ====
section
/-! DEFINITION. One step of the machine. -/

namespace Sys2Proof.Machine

/-- One step: one turn of one agent (R391), on this spec's hardware. -/
def step (s : State) : Host.Outcome State Fault Refusal := machineTurn hardware exec s

/-- The state whose next step fetches and runs the instruction that an opcode-table word gives. -/
def State.withFetchWord (s : State) (nbits w : Nat) : State := s.presentTableWord nbits w

end Sys2Proof.Machine
end

