-- ==== Sys2Proof/Safety.lean ====
section
/-! DEFINITION. The terms claims are stated in: what a command leaves behind, when a command may run, and the invariants
that every step keeps (R57, R244, R418). -/

namespace Sys2Proof.Machine

/-! ## What a command leaves behind -/

/-- `s` with one more answer on the command port and no command held; nothing else differs. -/
def State.answered (s : State) (status : Word) (words : List Word) : State :=
  { s with answers := s.answers ++ [status :: words], held := none }

/-- `s` after a fault (R384): `FAULT` is `1 << 31 | ch << 16 | code << 8 | opc`, the answer is
`opc << 24 | code << 16`; nothing else differs. -/
def State.afterFault (s : State) (opc ch code : BitVec 8) : State :=
  State.answered { s with csr := { s.csr with fault := ((0x80#8 ++ ch) ++ code) ++ opc } } ((opc ++ code) ++ 0#16) []

/-- `s` after a blocked command (R385): the answer is `opc << 24 | 0xFF << 16`; nothing else differs. -/
def State.afterBlock (s : State) (opc : BitVec 8) : State := s.answered ((opc ++ 0xFF#8) ++ 0#16) []

/-- `s` with the command `i` held since its own `t0` (R392); nothing else differs. -/
def State.holding (s : State) (i : Instr) : State := { s with held := some ⟨i, s.t0⟩ }

/-- `s` with context `ch` replaced; nothing else differs. -/
def State.withCtx (s : State) (ch : BitVec 8) (c : Ctx) : State := { s with ctx := s.ctx.set ch.toNat c }

/-- The command-port status word of a completed command (R112). -/
def okStatus (opc : BitVec 8) (r : Nat) : Word := (opc ++ 0x00#8) ++ BitVec.ofNat 16 r

/-! ## When a command may run -/

/-- The block is not in the fault state (R32). -/
abbrev State.ready (s : State) : Prop := s.csr.fault.getLsbD 31 = false

/-- The block is not in the fault state and `ch` names a configured context. -/
abbrev State.readyOn (s : State) (ch : BitVec 8) : Prop :=
  s.ready ∧ ch.toNat < 64 ∧ (s.getCtx ch).cfg.running = true

/-- The TX records of bursts sent one after the other from context `c` (R125, R247): burst `k` is stamped with the `nextWT`
that `k` roll forwards give. -/
def txRecordsOf (ch : BitVec 8) (c : Ctx) (bursts : List (BitVec 148)) : List (List Word) :=
  bursts.zipIdx.map fun bk =>
    ((0x01#8 ++ ch) ++ c.cfg.arfcn) :: timeWord (((Ctx.roll hardware)^[bk.2]) c).enc.nextWT :: packBits bk.1

/-- The `NEXT_WTIME` records of `n` roll forwards from context `c` (R258). -/
def nextWtimesOf (ch : BitVec 8) (c : Ctx) (n : Nat) : List (List Word) :=
  (List.range n).map fun k => [(0x15#8 ++ ch) ++ 1#16, timeWord (((Ctx.roll hardware)^[k + 1]) c).enc.nextWT]

/-- The mapping record of a `CH_CONFIG` payload that stands for a mapping or for none (R118). -/
def recordOf (M : Option Mapping) : MapRecord :=
  match M with
  | none => ⟨0#32, 0#32, []⟩
  | some M => ⟨(((BitVec.ofNat 8 M.m ++ M.allowed) ++ M.tag) ++ BitVec.ofBool M.downlink) ++ 0#7, M.p, M.forward⟩

/-- Bit `i` of a bit vector as payload or response words carry it (R114): bit `31 - (i mod 32)` of word `i div 32`. -/
def wordBit (ws : List Word) (i : Nat) : Bool := (ws.getD (i / 32) 0).getLsbD (31 - i % 32)

/-- Symbol `i` of a soft vector as payload or response words carry it (R115): the byte lane `3 - (i mod 4)` of word
`i div 4`. -/
def wordSoft (ws : List Word) (i : Nat) : Soft := (ws.getD (i / 4) 0).extractLsb' (8 * (3 - i % 4)) 8

end Sys2Proof.Machine

namespace Sys2Proof

open Machine

/-! ## The checks of a command, in the order of R383 -/

/-- The global and pure commands: those whose `ch` column in R113 is 0. -/
def Opcode.isGlobal : Opcode → Bool
  | .nop | .reset | .csrWrite | .csrRead | .lsb8msb | .parEncode | .parSyndrome | .rachCheck | .xcchCode | .xcchDecode
  | .schCode | .convEncode | .viterbiDecode | .xcchInterleave | .xcchDeinterleave | .tchInterleave | .tchDeinterleave
  | .burstMap | .burstUnmap | .tchSpeechEncode | .tchSpeechDecode | .fnAdd | .fnDelta | .timeCmp => true
  | _ => false

/-- The legal values of `arg` (R120); the register index of `CSR_READ` and `CSR_WRITE` is item 6 of R383. -/
def Opcode.argLegal (o : Opcode) (arg : BitVec 16) : Bool :=
  match o with
  | .csrWrite | .csrRead => true
  | .lsb8msb => decide (1 ≤ arg.toNat ∧ arg.toNat ≤ 1024)
  | .parEncode | .parSyndrome => decide (arg.toNat ≤ 3)
  | .rachCheck => decide (arg.toNat < 2 ^ 6)
  | .convEncode | .viterbiDecode => decide (5 ≤ arg.toNat ∧ arg.toNat ≤ 512)
  | .tchInterleave | .tchDeinterleave => decide (arg.toNat = 0 ∨ arg.toNat = 4)
  | .burstMap => decide (arg.toNat < 2 ^ 5)
  | .l2Establish | .mapReverse | .mapRoll => decide (arg.toNat < 2)
  | _ => decide (arg.toNat = 0)

/-- No symbol of a payload vector of `n` symbols is the illegal code 255 (R115). -/
def softPayloadLegal (n : Nat) (ws : List Word) : Bool := (List.range n).all fun i => wordSoft ws i != 255#8

/-- The payload fields that item 5 of R383 checks: time words (R116), soft codes (R115), reserved fields (R118). -/
def Instr.payloadLegal : Instr → Bool
  | .chConfig _ _ w0 tx rx => legalConfigWord w0 && legalRecord tx && legalRecord rx
  | .xcchDecode _ _ soft | .tchSpeechDecode _ _ soft => softPayloadLegal 456 soft
  | .viterbiDecode _ arg soft => softPayloadLegal (2 * arg.toNat) soft
  | .xcchDeinterleave _ _ rows => (List.range 4).all fun r => softPayloadLegal 114 ((rows.drop (29 * r)).take 29)
  | .tchDeinterleave _ _ rows => (List.range 8).all fun r => softPayloadLegal 114 ((rows.drop (29 * r)).take 29)
  | .burstUnmap _ _ sym => softPayloadLegal 148 sym
  | .rxBurst _ _ time _ sym => legalTime hardware time && softPayloadLegal 148 sym
  | .fnAdd _ _ t _ => legalTime hardware t
  | .fnDelta _ _ a b => legalTime hardware a && legalTime hardware b
  | .timeCmp _ _ t1 t2 => legalTime hardware t1 && legalTime hardware t2
  | .mapReverse _ _ t | .mapRoll _ _ t _ => legalTime hardware t
  | _ => true

/-- Item 6 of R383 for `CSR_READ` (R271) and `CSR_WRITE` (R270). -/
def Instr.registerLegal : Instr → Bool
  | .csrRead _ arg => decide (arg.toNat ≤ 0xD)
  | .csrWrite _ arg v =>
    arg == 2#16 || ((arg == 3#16 || arg == 4#16 || arg == 5#16) && decide (1 ≤ v.toNat ∧ v.toNat < 2 ^ 31))
      || (arg == 6#16 && decide (v.toNat % 256 ≤ 16))
  | _ => true

/-- Item 8 of R383 for the commands other than `CH_CONFIG`: the kind, mapping and decoder a command needs. -/
def Instr.kindLegal (i : Instr) (c : Ctx) : Bool :=
  match i with
  | .l2Data _ _ _ | .idleFill _ _ => c.cfg.kind == .xcch || c.cfg.kind == .sacch || c.cfg.kind == .tch
  | .rxBurst _ _ _ _ _ | .ferGood _ _ | .ferBad _ _ => c.hasDecoder
  | .rachService _ _ => c.cfg.kind == .rach
  | .schSend _ _ _ => c.cfg.kind == .sch
  | .fcchSend _ _ => c.cfg.kind == .fcch
  | .tchSendSlot _ _ | .tchSpeechPush _ _ _ => c.cfg.kind == .tch
  | .resync _ _ | .waitToSend _ _ => c.cfg.kind.hasEncoder
  | .phyRead _ _ => (c.cfg.kind == .xcch || c.cfg.kind == .sacch || c.cfg.kind == .tch) && c.hasDecoder
  | .mapReverse _ arg _ | .mapRoll _ arg _ _ => if arg.getLsbD 0 then c.cfg.rxmap.isSome else c.cfg.txmap.isSome
  | _ => true

/-- A mapping record meets conditions 1 to 6 of R244 for a `KIND` code, a timeslot and a direction, read off its words (R118):
`m` from 2 to `MAX_M`, a period that divides the hyperframe, strictly increasing offsets below it, whole blocks, the
direction's `downlink` bit, the timeslot's `allowed` bit. -/
def MapRecord.meets (kind : Nat) (tn : BitVec 3) (downlink : Bool) (r : MapRecord) : Bool :=
  decide (2 ≤ r.forward.length ∧ r.forward.length ≤ 255) && decide (1 ≤ r.p.toNat ∧ 2715648 % r.p.toNat = 0)
    && decide (r.forward.Pairwise fun a b => a.toNat < b.toNat) && (r.forward.all fun w => decide (w.toNat < r.p.toNat))
    && decide ((kind = 1 ∨ kind = 2 → r.forward.length % 4 = 0) ∧ (kind = 6 → r.forward.length % 8 = 0))
    && r.head.getLsbD 7 == downlink && r.head.getLsbD (16 + tn.toNat)

/-- A `CH_CONFIG` payload has a `KIND` from 1 to 6 (R40, R272), the mappings that the kind requires and no other (R244 item 7),
and each of them meets R244. -/
def configMeets (w0 : Word) (tx rx : MapRecord) : Bool :=
  let kind := (w0.extractLsb' 28 4).toNat
  let hasTx : Bool := tx.head.extractLsb' 24 8 != 0#8
  let hasRx : Bool := rx.head.extractLsb' 24 8 != 0#8
  decide (1 ≤ kind ∧ kind ≤ 6) && decide (hasTx = true ↔ kind ≠ 3)
    && decide (kind = 3 ∨ kind = 6 → hasRx = true) && decide (kind = 4 ∨ kind = 5 → hasRx = false)
    && (!hasTx || tx.meets kind (w0.extractLsb' 25 3) true) && (!hasRx || rx.meets kind (w0.extractLsb' 25 3) false)

/-- The context takes a burst with this time word (R246): the burst is on the context's timeslot, and its frame is on the uplink
mapping, at an offset that some `forward` entry names. -/
def Machine.Ctx.takesBurst (c : Ctx) (time : Word) : Bool :=
  match c.cfg.rxmap with
  | none => false
  | some M =>
    time.extractLsb' 29 3 == c.cfg.tn
      && M.forward.any fun w => w.toNat == (time.extractLsb' 0 22).toNat % M.p.toNat

/-- `CH_CONFIG` may configure its context (R272): it is not running, the kind is 1 to 6, the mappings are well-formed. -/
def Instr.configLegal (i : Instr) (c : Ctx) : Bool :=
  match i with
  | .chConfig _ _ w0 tx rx => !c.cfg.running && configMeets w0 tx rx
  | _ => true

/-- The code of the fault a command takes, if one of its checks fails: items 3 to 9 of R383, in their order. -/
def Instr.verdict (i : Instr) (s : State) : Option (BitVec 8) :=
  let c := s.getCtx i.ch
  if (if i.opcode.isGlobal then i.ch != 0#8 else decide (64 ≤ i.ch.toNat)) then some 0x03#8
  else if !i.opcode.argLegal i.arg then some 0x07#8
  else if !i.payloadLegal then some 0x07#8
  else if !i.registerLegal then some 0x07#8
  else if !i.opcode.isGlobal && i.opcode != .chConfig && i.opcode != .chDeconfig && i.opcode != .chStatus
      && !c.cfg.running then some 0x04#8
  else if !i.configLegal c then some 0x05#8
  else if !i.kindLegal c then some 0x09#8
  else
    match i with
    | .rxBurst _ _ time _ _ => if c.takesBurst time then none else some 0x06#8
    | .l2Data _ _ _ =>
      if c.cfg.kind == .tch && c.enc.active && decide (c.enc.facchQ.length = 8) then some 0x08#8 else none
    | _ => none

end Sys2Proof

namespace Sys2Proof.Machine

/-! ## Polynomials -/

/-- `p` is the polynomial over GF(2) whose coefficients are the bits of `v` (R12): the first element of the vector is the
coefficient of the highest degree. -/
def IsPolyOf {n : Nat} (v : BitVec n) (p : Polynomial (ZMod 2)) : Prop :=
  ∀ i, p.coeff i = if v.getLsbD i then 1 else 0

/-! ## Invariants -/

/-- The control registers hold legal values (R32 to R35): `FAULT` has its reserved bits 0, is 0 outside the fault state and
holds a code of R381 inside it; `BSIC` is below 64, the timeouts are `1 … 2^31 - 1`, the latency cap is at most 16. -/
def Csr.legal (r : Csr) : Bool :=
  r.fault.extractLsb' 24 7 == 0#7
    && (r.fault.getLsbD 31 || r.fault == 0#32)
    && (!r.fault.getLsbD 31 || (decide (1 ≤ (r.fault.extractLsb' 8 8).toNat) && decide ((r.fault.extractLsb' 8 8).toNat ≤ 9)))
    && decide (r.bsic.toNat < 64)
    && decide (1 ≤ r.t3101Ms.toNat ∧ r.t3101Ms.toNat < 2 ^ 31)
    && decide (1 ≤ r.t3109Ms.toNat ∧ r.t3109Ms.toNat < 2 ^ 31)
    && decide (1 ≤ r.t3111Ms.toNat ∧ r.t3111Ms.toNat < 2 ^ 31)
    && decide (r.maxSpeechLatency.toNat ≤ 16)

/-- A configured context is well-formed and an unconfigured one is the reset context: R57 item 4, R244, the queue
capacities of R46 and R54, `actualMSTiming ≤ 63` (R53), timers only where the kind has them (R360), and block alignment
(R418). -/
def Ctx.legal (c : Ctx) : Bool :=
  if c.cfg.running then
    mappingsWf hardware c.cfg.kind c.cfg.tn c.cfg.txmap c.cfg.rxmap
      && (!c.enc.active || c.cfg.kind.hasEncoder)
      && (!c.dec.accepting || c.hasDecoder)
      && decide (c.enc.facchQ.length ≤ 8) && decide (c.enc.speechQ.length ≤ 16) && decide (c.dec.rachQ.length ≤ 16)
      && (c.cfg.kind == .tch || (c.enc.facchQ.isEmpty && c.enc.speechQ.isEmpty))
      && (c.cfg.kind == .rach || c.dec.rachQ.isEmpty)
      && decide (c.dec.actualMSTiming.toNat ≤ 63)
      && ((c.cfg.kind.hasTimers && c.hasDecoder) || (!c.dec.t3101.armed && !c.dec.t3109.armed && !c.dec.t3111.armed))
      && (!c.cfg.kind.hasRing || decide (c.enc.totalBursts.toNat % 4 = 0))
  else c == Ctx.reset

/-- The tails `eU[224..228)` and `tU[185..189)` are zero (R57 item 6). -/
def Ctx.tailsZero (c : Ctx) : Bool := slice c.enc.eU 224 4 == 0#4 && slice c.enc.tU 185 4 == 0#4

/-- Every soft cell holds a legal code, 0 to 254 (R11, R115). -/
def Ctx.softLegal (c : Ctx) : Bool :=
  c.dec.dI4.toList.all legalSoft && c.dec.dI8.toList.all legalSoft && legalSoft c.dec.dHl && legalSoft c.dec.dHu
    && legalSoft c.dec.dC && c.dec.rachQ.all fun b => legalSoft b.sym

/-- The schedule of a context with a downlink mapping lies on its mapping (R57 item 3): `nextWT` and `prevWT` are on the
context's timeslot, and `nextWT` is at offset `forward[totalBursts mod m]` of the period. -/
def Ctx.onSchedule (c : Ctx) : Bool :=
  match c.cfg.txmap with
  | none => true
  | some M =>
    c.enc.nextWT.tn == c.cfg.tn && c.enc.prevWT.tn == c.cfg.tn
      && c.enc.nextWT.fn % M.p.toNat == frameMapping M c.enc.totalBursts.toNat

/-- Every time a context holds is a time of R14: `nextWT`, `prevWT` (R44) and those of the queued RACH bursts (R48). -/
def Ctx.timesLegal (c : Ctx) : Bool :=
  decide (c.enc.nextWT.fn < 2715648) && decide (c.enc.prevWT.fn < 2715648)
    && c.dec.rachQ.all fun b => decide (b.time.fn < 2715648)

/-- Every context of a state has a property. -/
def State.everyCtx (s : State) (p : Ctx → Bool) : Bool := s.ctx.all p

/-- Every time the state holds is a time of R14: the clock's, the held command's `t0`, those of the contexts. -/
def State.timesLegal (s : State) : Bool :=
  decide (s.nowTime.fn < 2715648) && (s.held.all fun h => decide (h.t0.fn < 2715648)) && s.everyCtx Ctx.timesLegal

end Sys2Proof.Machine
end

