-- ==== Sys2Proof/Certificates/Slice0/Obligations.lean ====
section
/-! DEFINITION. The statements for the provers. `s.ready` and `s.readyOn ch` are hypotheses on the state alone: the block is
not in the fault state, and `ch` names a configured context. A next state is written as the state before with the fields
that change, so every statement carries its frame: what it does not write is unchanged. -/

section
open Sys2Proof Sys2Proof.Machine

/-! ## Encoding -/

/-- Decoding an encoded well-formed command gives it back, with the words that follow it left over; and what decodes as a
command is the encoding of that command (R110, R111, R113, R118, R124). How many words a command with an illegal `arg`
carries is the model's reading: log entries 6 and 14. -/
def Obligations.DecodeEncodeAgree : Prop :=
  (∀ (i : Instr) (rest : List Word), i.wf = true → decode (encode i ++ rest) = .instr i rest) ∧
  (∀ (ws rest : List Word) (i : Instr), decode ws = .instr i rest → i.wf = true ∧ encode i ++ rest = ws)

/-- Command words of R130 and of the vectors of 95_test_vectors.md decode to the commands they stand for. -/
def Obligations.DecodingExamples : Prop :=
  decode [0x02000002#32, 7#32] = .instr (.csrWrite 0#8 2#16 7#32) [] ∧
  decode [0x40030000#32, 0x0103012B#32, 0x2B2B2B2B#32, 0x2B2B2B2B#32, 0x2B2B2B2B#32, 0x2B2B2B2B#32, 0x2B2B2B00#32]
    = .instr (.l2Data 3#8 0#16
        [0x0103012B#32, 0x2B2B2B2B#32, 0x2B2B2B2B#32, 0x2B2B2B2B#32, 0x2B2B2B2B#32, 0x2B2B2B00#32]) [] ∧
  decode [0x10000008#32, 0x12000000#32] = .instr (.lsb8msb 0#8 8#16 [0x12000000#32]) [] ∧
  decode [0x41030001#32] = .instr (.l2Establish 3#8 1#16) [] ∧
  decode [0x83020001#32, 165#32, 9#32] = .instr (.mapReverse 2#8 1#16 165#32) [9#32] ∧
  decode [0x04010000#32, 0x10000001#32, 0x02FF0080#32, 51#32, 4#32, 5#32, 0#32, 0#32]
    = .instr (.chConfig 1#8 0#16 0x10000001#32 ⟨0x02FF0080#32, 51#32, [4#32, 5#32]⟩ ⟨0#32, 0#32, []⟩) [] ∧
  decode [0x50050000#32] = .incomplete ∧
  decode [0x47000000#32, 5#32] = .illegalPrimitive 0x47000000#32 [5#32] ∧
  decode [0x07000000#32, 5#32] = .illegalOpcode 0x07000000#32 [5#32]

/-! ## The machine: steps, agents, answers -/

/-- The command processor fetches the command at the head of the command port, takes its words off the port and runs it
(R88, R110), whether it moves because it is named or because no agent is (that the state names the agent is the model's
choice, log entry 2). -/
def Obligations.StepRunsDecodedCommand : Prop :=
  ∀ (s : State) (i : Instr) (rest : List Word), s.held = none → decode s.cmd = .instr i rest →
    (s.sched = [] → step s = exec i { s with cmd := rest }) ∧
    (∀ ts, s.sched = .processor :: ts → step s = exec i { s with cmd := rest, sched := ts })

/-- A held command is what the command processor goes on with (R392, R416), and it either ends or the state stays exactly
as it is (I16, R417; log entry 9): nothing else executes meanwhile. With nothing held and no whole command on the port the
block is idle (R413; log entry 11). -/
def Obligations.HeldCommandGoesOn : Prop :=
  (∀ (s : State) (h : Held), s.held = some h → s.sched = [] →
    step s = exec h.instr s ∧ (∀ t, step s = .next t → t = s ∨ t.held = none)) ∧
  (∀ s : State, s.held = none → s.sched = [] → decode s.cmd = .incomplete → step s = .next s)

/-- The turns of the other agents (R43, R391, R410): the environment replaces `NOW_TIME` by a time not earlier in TDMA
order and adds to `NOW_MS`, and the model stops on a clock that breaks that contract or is no TDMA time (R14; log entry
3); `RST` resets registers and contexts, abandons a held command without an answer and takes the words of a partly
presented command off the command port, which then expects a command word (R412): what the host puts there next is read
from the start of a command; the host appends words to the command port. That the state names the agent that moves and
that `RST` leaves whole commands on the port are the model's choices (log entries 2 and 12). -/
def Obligations.AgentsTakeTurns : Prop :=
  (∀ (s : State) (t : Time) (ms : Word) (ts : List Turn), s.sched = .clock t ms :: ts → t.fn < 2715648 →
    0 ≤ timeCmp hardware t s.nowTime →
    step s = .next { s with nowTime := t, nowMs := s.nowMs + ms, sched := ts }) ∧
  (∀ (s : State) (t : Time) (ms : Word) (ts : List Turn), s.sched = .clock t ms :: ts →
    2715648 ≤ t.fn ∨ timeCmp hardware t s.nowTime < 0 →
    step s = .fault .clockContract) ∧
  (∀ (s : State) (ts : List Turn), s.sched = .rst :: ts →
    step s = .next
      { s with csr := Csr.reset hardware, ctx := Ctx.allReset hardware, held := none, sched := ts
               cmd := wholeCommands s.cmd }) ∧
  (∀ (s : State) (ws : List Word) (ts : List Turn), s.sched = .issue ws :: ts →
    step s = .next { s with cmd := s.cmd ++ ws, sched := ts }) ∧
  (∀ ws : List Word, decode ws = .incomplete → wholeCommands ws = []) ∧
  (∀ (ws rest : List Word) (i : Instr), decode ws = .instr i rest → wholeCommands ws = encode i ++ wholeCommands rest) ∧
  (∀ (ws rest : List Word) (w : Word), decode ws = .illegalOpcode w rest ∨ decode ws = .illegalPrimitive w rest →
    wholeCommands ws = w :: wholeCommands rest) ∧
  (∀ ws new : List Word, wholeCommands (wholeCommands ws ++ new) = wholeCommands ws ++ wholeCommands new)

/-- Every command has a next state. It either holds, and has changed nothing (R88, R392), or answers exactly once, its status
word echoing `opc` and counting the response words, of which a fault or a blocked command has none (R82, R112). It never
writes the clock inputs (R43) or the command port's input, and only appends to the TX and UP ports (R84). That
`RESET` too keeps the words on the command port is the model's choice (log entry 12). -/
def Obligations.EveryCommandAnswersOrHolds : Prop :=
  ∀ (i : Instr) (s : State), ∃ t, exec i s = .next t ∧
    t.nowTime = s.nowTime ∧ t.nowMs = s.nowMs ∧ t.cmd = s.cmd ∧ t.sched = s.sched ∧
    (∃ recs, t.tx = s.tx ++ recs) ∧ (∃ recs, t.up = s.up ++ recs) ∧
    (t = s.holding i ∨
      (t.held = none ∧ ∃ (result : BitVec 8) (ws : List Word),
        t.answers = s.answers ++ [((i.opcode.code ++ result) ++ BitVec.ofNat 16 ws.length) :: ws] ∧
        (result ≠ 0#8 → ws = [])))

/-! ## Faults -/

/-- The checks of a command run in the order of R383 and the first that fails gives the fault of R381, which changes nothing
but `FAULT` and the answer (R384); the conditions of R244 and the demux check of R246 are written out from the payload
(`configMeets`, `takesBurst`); when all pass, the command completes with result `0x00` or holds. That word 1 of a record
with `m = 0` is a reserved field is the model's reading (log entry 7). -/
def Obligations.ChecksRunInOrder : Prop :=
  ∀ (i : Instr) (s : State), s.ready → i.opcode ≠ .reset →
    (∀ code, i.verdict s = some code → exec i s = .next (s.afterFault i.opcode.code i.ch code)) ∧
    (i.verdict s = none → ∃ t, exec i s = .next t ∧ t.csr.fault = s.csr.fault ∧
      (t = s.holding i ∨ ∃ ws, t.answers = s.answers ++ [okStatus i.opcode.code ws.length :: ws]))

/-- Faults never nest (R384, R385, R387, from which the spec infers it in R388): no step from a state in the fault state
raises another fault; `FAULT` keeps what it holds until a reset clears every register. -/
def Obligations.FaultsNeverNest : Prop :=
  ∀ s t : State, s.csr.fault.getLsbD 31 = true → step s = .next t →
    t.csr = s.csr ∨ (t.csr = Csr.reset hardware ∧ t.ctx = Ctx.allReset hardware)

/-- R385: in the fault state every command but `RESET` and `CSR_READ` consumes its words, changes nothing and answers
`BLOCKED`; `CSR_READ` executes normally, or answers `BLOCKED` where it would fault; `RESET` clears the state. -/
def Obligations.FaultStateBlocks : Prop :=
  ∀ (s : State), s.csr.fault.getLsbD 31 = true → s.held = none → s.sched = [] →
    (∀ i rest, decode s.cmd = .instr i rest → i.opcode ≠ .reset → i.opcode ≠ .csrRead →
      step s = .next (State.afterBlock { s with cmd := rest } i.opcode.code)) ∧
    (∀ w rest, decode s.cmd = .illegalOpcode w rest ∨ decode s.cmd = .illegalPrimitive w rest →
      step s = .next (State.afterBlock { s with cmd := rest } (w.extractLsb' 24 8))) ∧
    (∀ arg rest, decode s.cmd = .instr (.csrRead 0#8 arg) rest → arg.toNat ≤ 0xD →
      ∃ v, s.csrRead hardware arg = some v ∧ step s = .next (State.answered { s with cmd := rest } 0x03000001#32 [v])) ∧
    (∀ ch arg rest, decode s.cmd = .instr (.csrRead ch arg) rest → ch ≠ 0#8 ∨ 0xD < arg.toNat →
      step s = .next (State.afterBlock { s with cmd := rest } 0x03#8)) ∧
    (∀ ch arg rest, decode s.cmd = .instr (.reset ch arg) rest →
      ∃ t, step s = .next t ∧ t.csr.fault = 0#32)

/-- R284: a command word with `opc` in `0x44–0x4F` faults `ILLEGAL_PRIMITIVE` whatever its other fields, and any other `opc`
outside the table of R113 faults `ILLEGAL_OPCODE` (R122); the word alone is consumed (R124). In the fault state both are
blocked instead. -/
def Obligations.UnassignedOpcodesFault : Prop :=
  ∀ (s : State) (w : Word) (rest : List Word), s.held = none → s.sched = [] → s.cmd = w :: rest →
    (0x44 ≤ (w.extractLsb' 24 8).toNat ∧ (w.extractLsb' 24 8).toNat ≤ 0x4F →
      step s = .next (if s.csr.fault.getLsbD 31 then State.afterBlock { s with cmd := rest } (w.extractLsb' 24 8)
        else State.afterFault { s with cmd := rest } (w.extractLsb' 24 8) (w.extractLsb' 16 8) 0x02#8)) ∧
    ((w.extractLsb' 24 8).toNat ∉
        [0x00, 0x01, 0x02, 0x03, 0x04, 0x05, 0x06, 0x10, 0x20, 0x21, 0x22, 0x23, 0x24, 0x25, 0x30, 0x31, 0x32, 0x33, 0x34,
          0x35, 0x36, 0x37, 0x38, 0x39, 0x40, 0x41, 0x42, 0x43, 0x44, 0x45, 0x46, 0x47, 0x48, 0x49, 0x4A, 0x4B, 0x4C, 0x4D,
          0x4E, 0x4F, 0x50, 0x51, 0x60, 0x61, 0x62, 0x63, 0x64, 0x65, 0x66, 0x70, 0x71, 0x72, 0x80, 0x81, 0x82, 0x83, 0x84] →
      step s = .next (if s.csr.fault.getLsbD 31 then State.afterBlock { s with cmd := rest } (w.extractLsb' 24 8)
        else State.afterFault { s with cmd := rest } (w.extractLsb' 24 8) (w.extractLsb' 16 8) 0x01#8))

/-! ## What no command does -/

/-- A command touches no other context than the one its `ch` field names, and a global or pure command but `RESET` touches
none (R39, R113, R276). -/
def Obligations.OtherContextsUntouched : Prop :=
  ∀ (i : Instr) (s t : State), i.opcode ≠ .reset → exec i s = .next t →
    (∀ c : BitVec 8, c ≠ i.ch → t.getCtx c = s.getCtx c) ∧ (i.opcode.isGlobal = true → t.ctx = s.ctx)

/-- Every one-bit flag of a context and its configuration are written by no other command than those R41 and R366 list
(`CH_CONFIG` and `CH_DECONFIG` install the reset context, R272, R273). -/
def Obligations.FlagsWrittenOnlyWhereListed : Prop :=
  ∀ (i : Instr) (s t : State) (c : BitVec 8), exec i s = .next t →
    i.opcode ≠ .reset → i.opcode ≠ .chConfig → i.opcode ≠ .chDeconfig →
    (t.getCtx c).cfg = (s.getCtx c).cfg ∧
    (i.opcode ∉ [.l2Establish, .l2Release, .l2Error] → (t.getCtx c).enc.active = (s.getCtx c).enc.active) ∧
    (i.opcode ∉ [.l2Establish, .l2Release] → (t.getCtx c).dec.accepting = (s.getCtx c).dec.accepting) ∧
    (i.opcode ∉ [.l2Establish, .rxBurst, .phyRead] → (t.getCtx c).dec.phyNew = (s.getCtx c).dec.phyNew) ∧
    (i.opcode = .rxBurst → (s.getCtx c).dec.phyNew = true → (t.getCtx c).dec.phyNew = true) ∧
    (i.opcode = .phyRead → (t.getCtx c).dec.phyNew = true → (s.getCtx c).dec.phyNew = true) ∧
    (i.opcode ∉ [.l2Establish, .tchSendSlot] →
      (t.getCtx c).enc.curFACCH = (s.getCtx c).enc.curFACCH ∧ (t.getCtx c).enc.prevFACCH = (s.getCtx c).enc.prevFACCH)

/-- A command writes no control register unless it is `RESET` or `CSR_WRITE`, but for `RACH_DROPS`, which `RX_BURST`
counts (R36, R287, R386), and `FAULT`, which only a command writes that answers a fault code, with that code (R384); and
only the transmitting and receiving commands append records (R84, R258, R390). -/
def Obligations.RegistersAndPortsWrittenOnlyWhereListed : Prop :=
  ∀ (i : Instr) (s t : State), exec i s = .next t →
    (i.opcode ∉ [.reset, .csrWrite] →
      t.csr = { s.csr with fault := t.csr.fault, rachDrops := t.csr.rachDrops } ∧
      (i.opcode ≠ .rxBurst → t.csr.rachDrops = s.csr.rachDrops)) ∧
    (i.opcode ≠ .reset → t.csr.fault = s.csr.fault ∨
      ∃ code : BitVec 8, 1 ≤ code.toNat ∧ code.toNat ≤ 9 ∧
        t.answers = s.answers ++ [[(i.opcode.code ++ code) ++ 0#16]] ∧
        t.csr.fault = ((0x80#8 ++ i.ch) ++ code) ++ i.opcode.code) ∧
    (i.opcode ∉ [.l2Data, .idleFill, .schSend, .fcchSend, .tchSendSlot] → t.tx = s.tx) ∧
    (i.opcode ∉ [.l2Data, .idleFill, .schSend, .fcchSend, .tchSendSlot, .rxBurst, .rachService] → t.up = s.up)

/-! ## Invariants -/

/-- Right after reset the registers are legal, there are `NUM_CTX` contexts, and every context is well-formed, with zero
tails, legal soft codes and a schedule on its mapping; every frame number is in `[0, H)`. -/
def Obligations.ResetMeetsInvariants : Prop :=
  State.reset.csr.legal = true ∧ State.reset.ctx.length = 64 ∧ State.reset.everyCtx Ctx.legal = true ∧
  State.reset.everyCtx Ctx.tailsZero = true ∧ State.reset.everyCtx Ctx.softLegal = true ∧
  State.reset.everyCtx Ctx.onSchedule = true ∧ State.reset.timesLegal = true

/-- Every step keeps the control registers legal (R32 to R35, R381). -/
def Obligations.StepKeepsRegistersLegal : Prop :=
  ∀ s t : State, s.csr.legal = true → step s = .next t → t.csr.legal = true

/-- Every step keeps every context well-formed: `encActive` and `decAccepting` imply `running` (R57 item 4), a configured
context has well-formed mappings for its kind (R244), the queues stay within their capacities (R46, R54), `actualMSTiming`
stays at most 63 (R53), timers run only where the kind has them (R360) and blocks stay aligned (R418). Their number stays
`NUM_CTX` (R39). -/
def Obligations.StepKeepsContextsLegal : Prop :=
  ∀ s t : State, s.everyCtx Ctx.legal = true → s.ctx.length = 64 → step s = .next t →
    t.everyCtx Ctx.legal = true ∧ t.ctx.length = 64

/-- Every step keeps the tails `eU[224..228)` and `tU[185..189)` zero in every encoder (R57 item 6, R419), and no step brings
the illegal soft code 255 into a decoder (R11, R115, R286). -/
def Obligations.StepKeepsBuffersLegal : Prop :=
  ∀ s t : State, step s = .next t →
    (s.everyCtx Ctx.tailsZero = true → t.everyCtx Ctx.tailsZero = true) ∧
    (s.everyCtx Ctx.softLegal = true → t.everyCtx Ctx.softLegal = true)

/-- Every step keeps every schedule on its mapping (R57 item 3): `nextWT` and `prevWT` on the context's timeslot, `nextWT` at
offset `forward[totalBursts mod m]` of the period, across the hyperframe wrap too (R243); and it keeps the frame number of
every time in `[0, H)` (R14): of the clock, the schedules, the queued RACH bursts and the held command. -/
def Obligations.StepKeepsSchedules : Prop :=
  ∀ s t : State, step s = .next t →
    (s.everyCtx (fun c => c.legal && c.onSchedule) = true → t.everyCtx (fun c => c.legal && c.onSchedule) = true) ∧
    (s.timesLegal = true → t.timesLegal = true)

/-! ## System and context commands -/

/-- R411, through the `RESET` command (R276), which ignores `ch` and `arg` and runs in the fault state too: every control
register and every field of every context takes its reset value; the clock inputs and the TX and UP ports stay (R412). -/
def Obligations.ResetEffect : Prop :=
  ∀ (ch : BitVec 8) (arg : BitVec 16) (s : State), ∃ t, exec (.reset ch arg) s = .next t ∧
    t.csrRead hardware 0#16 = some 0x4C314643#32 ∧
    t.csr = { fault := 0#32, bsic := 0#32, t3101Ms := 1000#32, t3109Ms := 19000#32, t3111Ms := 2000#32
              maxSpeechLatency := 0#32, rachDrops := 0#32 } ∧
    t.ctx.length = 64 ∧
    (∀ c : BitVec 8, c.toNat < 64 →
      (t.getCtx c).cfg =
        { kind := .none, tn := 0#3, c0 := false, arfcn := 0#16, txmap := none, rxmap := none, running := false } ∧
      (t.getCtx c).enc =
        { active := false, nextWT := ⟨0, 0#3⟩, prevWT := ⟨0, 0#3⟩, totalBursts := 0#32
          eU := 0#228, eC := 0#456, eI4 := Vector.replicate 4 0#114, tU := 0#189, tD := 0#260
          eI8 := Vector.replicate 8 0#114, offset := .zero, prevFACCH := false, curFACCH := false
          facchQ := [], speechQ := [] } ∧
      (t.getCtx c).dec =
        { accepting := false, fer := 0#32
          dI4 := Vector.replicate 4 (Vector.replicate 114 127#8), dI8 := Vector.replicate 8 (Vector.replicate 114 127#8)
          dHl := Vector.replicate 8 127#8, dHu := Vector.replicate 8 127#8, dC := Vector.replicate 456 127#8
          dU := 0#228, dTU := 0#189, dTD := 0#260, prevGood := 0#260
          t3101 := ⟨false, 0#32, 0#32⟩, t3109 := ⟨false, 0#32, 0#32⟩, t3111 := ⟨false, 0#32, 0#32⟩
          rssi := Vector.replicate 4 0#16, te := Vector.replicate 4 0#16, phyCnt := 0#2, phyNew := false
          actualMSPower := 0#5, actualMSTiming := 0#7, rachQ := [] }) ∧
    t.nowTime = s.nowTime ∧ t.nowMs = s.nowMs ∧ t.tx = s.tx ∧ t.up = s.up ∧ t.held = none ∧
    t.answers = s.answers ++ [[0x01000000#32]]

/-- R274: `NOP` completes and changes nothing; it faults `BAD_CHANNEL` for a non-zero `ch` and `BAD_ARGUMENT` for a non-zero
`arg`. -/
def Obligations.NopCompletes : Prop :=
  ∀ (s : State), s.ready →
    exec (.nop 0#8 0#16) s = .next (s.answered 0x00000000#32 []) ∧
    (∀ ch arg, ch ≠ 0#8 → exec (.nop ch arg) s = .next (s.afterFault 0x00#8 ch 0x03#8)) ∧
    (∀ arg, arg ≠ 0#16 → exec (.nop 0#8 arg) s = .next (s.afterFault 0x00#8 0#8 0x07#8))

/-- R270: `CSR_WRITE` of `BSIC`, of the three timeouts and of `MAX_SPEECH_LATENCY`, the values it refuses and the
registers it does not write; nothing but the register named changes, so armed timers keep their timeouts. -/
def Obligations.CsrWriteWritesRegister : Prop :=
  ∀ (s : State) (v : Word), s.ready →
    exec (.csrWrite 0#8 2#16 v) s
      = .next (State.answered { s with csr := { s.csr with bsic := v &&& 0x3F#32 } } 0x02000000#32 []) ∧
    (1 ≤ v.toNat → v.toNat < 2 ^ 31 →
      exec (.csrWrite 0#8 3#16 v) s
        = .next (State.answered { s with csr := { s.csr with t3101Ms := v } } 0x02000000#32 []) ∧
      exec (.csrWrite 0#8 4#16 v) s
        = .next (State.answered { s with csr := { s.csr with t3109Ms := v } } 0x02000000#32 []) ∧
      exec (.csrWrite 0#8 5#16 v) s
        = .next (State.answered { s with csr := { s.csr with t3111Ms := v } } 0x02000000#32 [])) ∧
    (v.toNat % 256 ≤ 16 →
      exec (.csrWrite 0#8 6#16 v) s
        = .next (State.answered { s with csr := { s.csr with maxSpeechLatency := v &&& 0xFF#32 } } 0x02000000#32 [])) ∧
    (v.toNat = 0 ∨ 2 ^ 31 ≤ v.toNat → ∀ arg, arg = 3#16 ∨ arg = 4#16 ∨ arg = 5#16 →
      exec (.csrWrite 0#8 arg v) s = .next (s.afterFault 0x02#8 0#8 0x07#8)) ∧
    (16 < v.toNat % 256 → exec (.csrWrite 0#8 6#16 v) s = .next (s.afterFault 0x02#8 0#8 0x07#8)) ∧
    (∀ arg, arg.toNat < 2 ∨ 6 < arg.toNat →
      exec (.csrWrite 0#8 arg v) s = .next (s.afterFault 0x02#8 0#8 0x07#8)) ∧
    (∀ ch arg, ch ≠ 0#8 → exec (.csrWrite ch arg v) s = .next (s.afterFault 0x02#8 ch 0x03#8))

/-- R271: `CSR_READ` answers each register of R31 to R36, in the fault state too, and changes nothing (R90); an index above
`0x000D` and a non-zero `ch` fault, or are blocked in the fault state. -/
def Obligations.CsrReadReadsRegister : Prop :=
  ∀ (s : State),
    (∀ p ∈ ([(0x0#16, 0x4C314643#32), (0x1#16, s.csr.fault), (0x2#16, s.csr.bsic), (0x3#16, s.csr.t3101Ms),
          (0x4#16, s.csr.t3109Ms), (0x5#16, s.csr.t3111Ms), (0x6#16, s.csr.maxSpeechLatency), (0x7#16, 64#32),
          (0x8#16, 16#32), (0x9#16, 8#32), (0xA#16, 16#32), (0xB#16, s.csr.rachDrops),
          (0xC#16, (s.nowTime.tn ++ 0#7) ++ BitVec.ofNat 22 s.nowTime.fn), (0xD#16, s.nowMs)]
          : List (BitVec 16 × Word)),
      exec (.csrRead 0#8 p.1) s = .next (s.answered 0x03000001#32 [p.2])) ∧
    (∀ arg, 0xD < arg.toNat →
      exec (.csrRead 0#8 arg) s
        = .next (if s.csr.fault.getLsbD 31 then s.afterBlock 0x03#8 else s.afterFault 0x03#8 0#8 0x07#8)) ∧
    (∀ ch arg, ch ≠ 0#8 →
      exec (.csrRead ch arg) s
        = .next (if s.csr.fault.getLsbD 31 then s.afterBlock 0x03#8 else s.afterFault 0x03#8 ch 0x03#8))

/-- `CH_CONFIG` (R272), sent as the payload of R118, of an unconfigured context with a kind and mappings that meet every
condition of R244, spelled out here: the context becomes the reset context with the payload's configuration, running, its
schedule seated on `forward[0]` where it has a downlink mapping (R250). It faults `CONFIG_ERROR` where any of these
conditions is broken, for every `KIND` code of 0 and 7 to 15, and on a running context. -/
def Obligations.ChConfigInstallsChannel : Prop :=
  ∀ (s : State) (ch : BitVec 8) (tn : BitVec 3) (c0 : Bool) (arfcn : BitVec 16) (tx rx : Option Mapping),
    s.ready → ch.toNat < 64 →
    let send (code : BitVec 4) : Instr :=
      .chConfig ch 0#16 ((((code ++ tn) ++ BitVec.ofBool c0) ++ 0#8) ++ arfcn) (recordOf tx) (recordOf rx)
    let meets (k : Kind) (down : Bool) (M : Mapping) : Prop :=
      2 ≤ M.forward.length ∧ M.forward.length ≤ 255 ∧ 1 ≤ M.p.toNat ∧ M.p.toNat ∣ 2715648 ∧
      M.forward.Pairwise (fun a b => a.toNat < b.toNat) ∧ (∀ w ∈ M.forward, w.toNat < M.p.toNat) ∧
      (k = .xcch ∨ k = .sacch → 4 ∣ M.forward.length) ∧ (k = .tch → 8 ∣ M.forward.length) ∧
      M.downlink = down ∧ M.allowed.getLsbD tn.toNat = true
    let present (k : Kind) : Prop :=
      k = .xcch ∧ tx.isSome ∨ k = .sacch ∧ tx.isSome ∨ k = .rach ∧ tx = none ∧ rx.isSome ∨
      k = .sch ∧ tx.isSome ∧ rx = none ∨ k = .fcch ∧ tx.isSome ∧ rx = none ∨ k = .tch ∧ tx.isSome ∧ rx.isSome
    (∀ k : Kind, (s.getCtx ch).cfg.running = false →
      (∀ (down : Bool) (M : Mapping), (if down then tx else rx) = some M → meets k down M) → present k →
      exec (send (kindCode k)) s = .next (State.answered (s.withCtx ch
        { cfg := { kind := k, tn := tn, c0 := c0, arfcn := arfcn, txmap := tx, rxmap := rx, running := true }
          enc :=
            match tx with
            | none => Encoder.reset
            | some M =>
              { Encoder.reset with
                nextWT := rollTo hardware ⟨s.nowTime.fn, tn⟩ (M.forward.getD 0 0).toNat M.p.toNat
                prevWT := ⟨s.nowTime.fn, tn⟩ }
          dec := Decoder.reset }) 0x04000000#32 [])) ∧
    ((∀ M, tx = some M ∨ rx = some M → 1 ≤ M.forward.length ∧ M.forward.length ≤ 255) →
      (∀ (k : Kind) (down : Bool) (M : Mapping), (if down then tx else rx) = some M → ¬ meets k down M →
        exec (send (kindCode k)) s = .next (s.afterFault 0x04#8 ch 0x05#8)) ∧
      (∀ k : Kind, ¬ present k → exec (send (kindCode k)) s = .next (s.afterFault 0x04#8 ch 0x05#8)) ∧
      (∀ code : BitVec 4, code = 0#4 ∨ 7 ≤ code.toNat → exec (send code) s = .next (s.afterFault 0x04#8 ch 0x05#8)) ∧
      ((s.getCtx ch).cfg.running = true → ∀ code, exec (send code) s = .next (s.afterFault 0x04#8 ch 0x05#8)))

/-- `CH_DECONFIG` (R273) puts the reset context in place, on a configured and on an unconfigured context alike, and faults
`BAD_CHANNEL` for a `ch` of 64 or more; `CH_STATUS` (R275) then answers `KIND`, flags and queues as 0. -/
def Obligations.ChDeconfigTearsDown : Prop :=
  ∀ (s : State) (ch : BitVec 8), s.ready → ch.toNat < 64 →
    exec (.chDeconfig ch 0#16) s = .next ((s.withCtx ch Ctx.reset).answered 0x05000000#32 []) ∧
    exec (.chStatus ch 0#16) (s.withCtx ch Ctx.reset)
      = .next ((s.withCtx ch Ctx.reset).answered 0x06000006#32 [0#32, 0#32, 0#32, 0#32, 0#32, 0#32]) ∧
    ∀ c : BitVec 8, 64 ≤ c.toNat → exec (.chDeconfig c 0#16) s = .next (s.afterFault 0x05#8 c 0x03#8)

/-- `CH_STATUS` (R275) answers the six words of its table, field by field, and changes nothing (R90). -/
def Obligations.ChStatusReadsContext : Prop :=
  ∀ (s : State) (ch : BitVec 8), s.ready → ch.toNat < 64 →
    let c := s.getCtx ch
    let status (T : Timer) : BitVec 2 :=
      if T.armed = false then 0#2 else if T.timeout.toNat ≤ (s.nowMs - T.start).toNat then 2#2 else 1#2
    let recyclable : Bool := status c.dec.t3101 == 2#2 || status c.dec.t3109 == 2#2 || status c.dec.t3111 == 2#2
    ∃ w0 w4 : Word,
      exec (.chStatus ch 0#16) s = .next (s.answered 0x06000006#32
        [w0, c.dec.fer, (c.enc.nextWT.tn ++ 0#7) ++ BitVec.ofNat 22 c.enc.nextWT.fn,
          (c.enc.prevWT.tn ++ 0#7) ++ BitVec.ofNat 22 c.enc.prevWT.fn, w4, c.enc.totalBursts]) ∧
      w0.extractLsb' 28 4 = kindCode c.cfg.kind ∧ w0.extractLsb' 25 3 = c.cfg.tn ∧ w0.getLsbD 24 = c.cfg.c0 ∧
      w0.extractLsb' 14 10 = 0#10 ∧ w0.extractLsb' 12 2 = status c.dec.t3111 ∧
      w0.extractLsb' 10 2 = status c.dec.t3109 ∧ w0.extractLsb' 8 2 = status c.dec.t3101 ∧
      w0.getLsbD 7 = c.enc.prevFACCH ∧ w0.getLsbD 6 = decide (c.enc.offset = .four) ∧ w0.getLsbD 5 = c.dec.phyNew ∧
      w0.getLsbD 4 = recyclable ∧ w0.getLsbD 3 = (c.dec.accepting && !recyclable) ∧
      w0.getLsbD 2 = c.dec.accepting ∧ w0.getLsbD 1 = c.enc.active ∧ w0.getLsbD 0 = c.cfg.running ∧
      w4.extractLsb' 24 8 = BitVec.ofNat 8 c.enc.speechQ.length ∧
      w4.extractLsb' 16 8 = BitVec.ofNat 8 c.enc.facchQ.length ∧
      w4.extractLsb' 8 8 = BitVec.ofNat 8 c.dec.rachQ.length ∧
      (∀ M, c.cfg.txmap = some M → w4.extractLsb' 0 8 = M.tag) ∧
      (∀ M, c.cfg.txmap = none → c.cfg.rxmap = some M → w4.extractLsb' 0 8 = M.tag) ∧
      (c.cfg.txmap = none → c.cfg.rxmap = none → w4.extractLsb' 0 8 = 0#8)

/-! ## Pure datapath commands -/

/-- `LSB8MSB` (R150, R152) reverses the bits of each whole octet, leaves the last `n mod 8` bits alone, pads its answer with
zeros and changes nothing; a length of 0 or above 1024 faults. -/
def Obligations.Lsb8msbReversesOctets : Prop :=
  ∀ (s : State) (arg : BitVec 16) (bits : List Word), s.ready →
    (1 ≤ arg.toNat → arg.toNat ≤ 1024 →
      ∃ ws, exec (.lsb8msb 0#8 arg bits) s = .next (s.answered (okStatus 0x10#8 ((arg.toNat + 31) / 32)) ws) ∧
        ws.length = (arg.toNat + 31) / 32 ∧
        ∀ i, wordBit ws i =
          if arg.toNat ≤ i then false
          else wordBit bits (if i / 8 < arg.toNat / 8 then 8 * (i / 8) + (7 - i % 8) else i)) ∧
    (arg.toNat = 0 ∨ 1024 < arg.toNat →
      exec (.lsb8msb 0#8 arg bits) s = .next (s.afterFault 0x10#8 0#8 0x07#8))

/-- `PAR_ENCODE` (R167) answers the remainder and its complement, `PAR_SYNDROME` (R168) the syndrome, for each of the four
codes of R162 with its generator, parity length and data length. `RACH_CHECK` (R170, R171) answers `tailOK`, `parityOK`
against the BSIC in `arg`, and the octet-reversed `RA`, of the first 18 payload bits. None of them changes anything. The
generators of the SCH, RACH and TCH codes are parameters at their defaults (log entry 8). -/
def Obligations.ParityCommandsAnswer : Prop :=
  ∀ (s : State) (ws : List Word), s.ready →
    (exec (.parEncode 0#8 0#16 ws) s = .next (s.answered 0x20000004#32
      (packBits (remainder 0x0004820009#40 (unpackBits 184 ws)) ++ packBits (~~~remainder 0x0004820009#40 (unpackBits 184 ws)))) ∧
    exec (.parEncode 0#8 1#16 ws) s = .next (s.answered 0x20000002#32
      (packBits (remainder 0x175#10 (unpackBits 25 ws)) ++ packBits (~~~remainder 0x175#10 (unpackBits 25 ws)))) ∧
    exec (.parEncode 0#8 2#16 ws) s = .next (s.answered 0x20000002#32
      (packBits (remainder 0x2F#6 (unpackBits 8 ws)) ++ packBits (~~~remainder 0x2F#6 (unpackBits 8 ws)))) ∧
    exec (.parEncode 0#8 3#16 ws) s = .next (s.answered 0x20000002#32
      (packBits (remainder 0x3#3 (unpackBits 50 ws)) ++ packBits (~~~remainder 0x3#3 (unpackBits 50 ws))))) ∧
    (exec (.parSyndrome 0#8 0#16 ws) s
      = .next (s.answered 0x21000002#32 (packBits (syndrome 0x0004820009#40 (unpackBits 224 ws)))) ∧
    exec (.parSyndrome 0#8 1#16 ws) s
      = .next (s.answered 0x21000001#32 (packBits (syndrome 0x175#10 (unpackBits 35 ws)))) ∧
    exec (.parSyndrome 0#8 2#16 ws) s
      = .next (s.answered 0x21000001#32 (packBits (syndrome 0x2F#6 (unpackBits 14 ws)))) ∧
    exec (.parSyndrome 0#8 3#16 ws) s
      = .next (s.answered 0x21000001#32 (packBits (syndrome 0x3#3 (unpackBits 53 ws))))) ∧
    ∀ (arg : BitVec 16) (u : Word), arg.toNat < 64 →
      ∃ w : Word, exec (.rachCheck 0#8 arg u) s = .next (s.answered 0x22000001#32 [w]) ∧
        w.getLsbD 31 = decide (u.extractLsb' 14 4 = 0#4) ∧
        w.getLsbD 30
          = decide (~~~u.extractLsb' 18 6 ^^^ remainder 0x2F#6 (u.extractLsb' 24 8) = arg.extractLsb' 0 6) ∧
        w.extractLsb' 8 22 = 0#22 ∧ ∀ i, i < 8 → w.getLsbD i = (u.extractLsb' 24 8).getLsbD (7 - i)

/-- `XCCH_CODE` (R172) and `SCH_CODE` (R174): the uncoded block (octet-reversed data, inverted parity, zero tail) and its
convolutional code; neither changes anything. The generator of the SCH code is a parameter at its default (log entry 8). -/
def Obligations.BlockCodingCommandsAnswer : Prop :=
  ∀ (s : State), s.ready →
    (∀ frame : List Word, ∃ u : BitVec 228,
      exec (.xcchCode 0#8 0#16 frame) s = .next (s.answered 0x2300000F#32 (packBits (convEncode u))) ∧
      (∀ i, i < 184 → u.getMsbD i = wordBit frame (8 * (i / 8) + (7 - i % 8))) ∧
      slice u 184 40 = ~~~remainder 0x0004820009#40 (slice u 0 184) ∧ slice u 224 4 = 0#4) ∧
    (∀ data : Word,
      exec (.schCode 0#8 0#16 data) s = .next (s.answered 0x25000003#32
        (packBits (convEncode ((data.extractLsb' 7 25 ++ ~~~remainder 0x175#10 (data.extractLsb' 7 25)) ++ 0#4)))))

/-- `CONV_ENCODE` (R190, R191): coded bit `2k` is `u[k] ⊕ u[k-3] ⊕ u[k-4]`, coded bit `2k+1` is that `⊕ u[k-1]`, bits before
the start being 0; the answer is padded with zeros and nothing changes. -/
def Obligations.ConvEncodeAnswers : Prop :=
  ∀ (s : State) (arg : BitVec 16) (bits : List Word), s.ready → 5 ≤ arg.toNat → arg.toNat ≤ 512 →
    let u (k d : Nat) : Bool := if d ≤ k then wordBit bits (k - d) else false
    ∃ ws, exec (.convEncode 0#8 arg bits) s = .next (s.answered (okStatus 0x30#8 ((2 * arg.toNat + 31) / 32)) ws) ∧
      ws.length = (2 * arg.toNat + 31) / 32 ∧
      (∀ k, k < arg.toNat → wordBit ws (2 * k) = ((u k 0 ^^ u k 3) ^^ u k 4) ∧
        wordBit ws (2 * k + 1) = (((u k 0 ^^ u k 1) ^^ u k 3) ^^ u k 4)) ∧
      ∀ i, 2 * arg.toNat ≤ i → wordBit ws i = false

/-- `VITERBI_DECODE` (R198) answers the decoded bits, `XCCH_DECODE` (R173) the validity of the block whose parity is inverted
back and the octet-reversed data bits, whether or not they are valid; neither changes anything. The decoding
function is the default of the parameter `VD` (log entry 8). -/
def Obligations.DecodingCommandsAnswer : Prop :=
  ∀ (s : State), s.ready →
    (∀ (arg : BitVec 16) (soft : List Word), 5 ≤ arg.toNat → arg.toNat ≤ 512 →
      softPayloadLegal (2 * arg.toNat) soft = true →
      exec (.viterbiDecode 0#8 arg soft) s = .next (s.answered (okStatus 0x31#8 ((arg.toNat + 31) / 32))
        (packBits (viterbi arg.toNat (vecOf (2 * arg.toNat) (wordSoft soft)))))) ∧
    (∀ soft : List Word, softPayloadLegal 456 soft = true →
      let u := viterbi 228 (vecOf 456 (wordSoft soft))
      exec (.xcchDecode 0#8 0#16 soft) s = .next (s.answered 0x24000007#32
        ((if syndrome 0x0004820009#40 (slice u 0 184 ++ ~~~slice u 184 40) = 0#40 then 1#32 else 0#32)
          :: packBits (lsb8msb (slice u 0 184)))))

/-- `XCCH_INTERLEAVE` (R210, R212) puts coded bit `k` in row `k mod 4` at place `j(k)`, `XCCH_DEINTERLEAVE` (R211, R213)
reads it from there; neither changes anything. -/
def Obligations.XcchInterleaveCommandsAnswer : Prop :=
  ∀ (s : State), s.ready →
    (∀ coded : List Word, ∃ ws, exec (.xcchInterleave 0#8 0#16 coded) s = .next (s.answered 0x32000010#32 ws) ∧
      ws.length = 16 ∧
      (∀ k, k < 456 → wordBit ws (128 * (k % 4) + (2 * ((49 * k) % 57) + (k % 8) / 4)) = wordBit coded k) ∧
      ∀ r j, r < 4 → 114 ≤ j → j < 128 → wordBit ws (128 * r + j) = false) ∧
    (∀ rows : List Word, (Instr.xcchDeinterleave 0#8 0#16 rows).payloadLegal = true →
      ∃ ws, exec (.xcchDeinterleave 0#8 0#16 rows) s = .next (s.answered 0x33000072#32 ws) ∧ ws.length = 114 ∧
        ∀ k, k < 456 → wordSoft ws k = wordSoft rows (116 * (k % 4) + (2 * ((49 * k) % 57) + (k % 8) / 4)))

/-- `TCH_INTERLEAVE` (R214, R216) puts coded bit `k` in row `(k + offset) mod 8` at place `j(k)` and keeps the cells of
the other parity; `TCH_DEINTERLEAVE` (R215, R217) reads the bits from there and answers the rows with each consumed cell
at the erasure 127 and the others unchanged. Neither changes anything. -/
def Obligations.TchInterleaveCommandsAnswer : Prop :=
  ∀ (s : State) (arg : BitVec 16), s.ready → arg.toNat = 0 ∨ arg.toNat = 4 →
    (∀ coded rows : List Word, ∃ ws, exec (.tchInterleave 0#8 arg coded rows) s = .next (s.answered 0x34000020#32 ws) ∧
      ws.length = 32 ∧
      (∀ k, k < 456 →
        wordBit ws (128 * ((k + arg.toNat) % 8) + (2 * ((49 * k) % 57) + (k % 8) / 4)) = wordBit coded k) ∧
      (∀ r j, r < 8 → j < 114 → j % 2 ≠ ((r + arg.toNat) % 8) / 4 → wordBit ws (128 * r + j) = wordBit rows (128 * r + j)) ∧
      ∀ r j, r < 8 → 114 ≤ j → j < 128 → wordBit ws (128 * r + j) = false) ∧
    (∀ rows : List Word, (Instr.tchDeinterleave 0#8 arg rows).payloadLegal = true →
      ∃ ws, exec (.tchDeinterleave 0#8 arg rows) s = .next (s.answered 0x3500015A#32 ws) ∧ ws.length = 346 ∧
        (∀ k, k < 456 →
          wordSoft ws k = wordSoft rows (116 * ((k + arg.toNat) % 8) + (2 * ((49 * k) % 57) + (k % 8) / 4))) ∧
        ∀ r j, r < 8 → j < 114 → wordSoft ws (456 + 116 * r + j) =
          if j % 2 = ((r + arg.toNat) % 8) / 4 then 127#8 else wordSoft rows (116 * r + j))

/-- `BURST_MAP` (R218, R220) lays out a normal burst position by position (R47), `BURST_UNMAP` (R219, R221) takes the row
and the stealing flags out of one; neither changes anything. -/
def Obligations.BurstCommandsAnswer : Prop :=
  ∀ (s : State), s.ready →
    (∀ (arg : BitVec 16) (row : List Word), arg.toNat < 32 →
      ∃ ws, exec (.burstMap 0#8 arg row) s = .next (s.answered 0x36000005#32 ws) ∧ ws.length = 5 ∧
        ∀ i, wordBit ws i =
          if i < 3 then false else if i < 60 then wordBit row (i - 3) else if i = 60 then arg.getLsbD 0
          else if i < 87 then (Config.tsc (arg.extractLsb' 2 3)).getMsbD (i - 61) else if i = 87 then arg.getLsbD 1
          else if i < 145 then wordBit row (57 + (i - 88)) else false) ∧
    (∀ sym : List Word, softPayloadLegal 148 sym = true →
      ∃ ws, exec (.burstUnmap 0#8 0#16 sym) s = .next (s.answered 0x3700001E#32 ws) ∧ ws.length = 30 ∧
        (∀ i, i < 57 → wordSoft ws i = wordSoft sym (3 + i) ∧ wordSoft ws (57 + i) = wordSoft sym (88 + i)) ∧
        ws.getD 29 0 = (0#16 ++ wordSoft sym 60) ++ wordSoft sym 87)

/-- `TCH_SPEECH_ENCODE` (R320, R331): the reordering, the fold, the inverted class-1A parity, the zero tail, the coded
class 1 and the plain class 2. `TCH_SPEECH_DECODE` (R321, R332): the speech bits whatever the checks say, and the
three flags. Neither changes anything. `VD` and the class-1A generator `G_TCH` are parameters at their defaults (log
entry 8). -/
def Obligations.TchSpeechCommandsAnswer : Prop :=
  ∀ (s : State), s.ready →
    (∀ frame : List Word, ∃ (d : BitVec 260) (u : BitVec 189) (ws : List Word),
      exec (.tchSpeechEncode 0#8 0#16 frame) s = .next (s.answered 0x3800000F#32 ws) ∧ ws.length = 15 ∧
      (∀ i : Fin 260, d.getMsbD i = wordBit frame (Config.tchOrder i)) ∧
      (∀ k, k ≤ 90 → u.getMsbD k = d.getMsbD (2 * k) ∧ u.getMsbD (184 - k) = d.getMsbD (2 * k + 1)) ∧
      slice u 91 3 = ~~~remainder 0x3#3 (slice d 0 50) ∧ slice u 185 4 = 0#4 ∧
      (∀ i, i < 378 → wordBit ws i = (convEncode u).getMsbD i) ∧
      (∀ i, i < 78 → wordBit ws (378 + i) = d.getMsbD (182 + i)) ∧ ∀ i, 456 ≤ i → wordBit ws i = false) ∧
    (∀ soft : List Word, softPayloadLegal 456 soft = true →
      let u := viterbi 189 (vecOf 378 (wordSoft soft))
      ∃ (d x : BitVec 260) (w : Word),
        exec (.tchSpeechDecode 0#8 0#16 soft) s = .next (s.answered 0x3900000A#32 (w :: packBits x)) ∧
        (∀ k, k ≤ 90 → d.getMsbD (2 * k) = u.getMsbD k ∧ d.getMsbD (2 * k + 1) = u.getMsbD (184 - k)) ∧
        (∀ i, i < 78 → d.getMsbD (182 + i) = decide (127 < (wordSoft soft (378 + i)).toNat)) ∧
        (∀ i : Fin 260, x.getMsbD (Config.tchOrder i) = d.getMsbD i) ∧
        w.getLsbD 1 = decide (slice u 91 3 = ~~~remainder 0x3#3 (slice d 0 50)) ∧
        w.getLsbD 2 = decide (slice u 185 4 = 0#4) ∧ w.getLsbD 0 = (w.getLsbD 1 && w.getLsbD 2) ∧
        w.extractLsb' 3 29 = 0#29)

/-! ## L2 primitives -/

/-- `L2_DATA` on an open XCCH or SACCH context whose wait is over (R282, R283): the frame is coded in the context's
buffers with its octets reversed, its parity inverted and the tail kept, interleaved, and sent as four normal bursts with
`Hl = Hu = 1` and training sequence `BCC`, each stamped with `nextWT` and followed by a roll forward. -/
def Obligations.L2DataSendsFourBursts : Prop :=
  ∀ (s : State) (ch : BitVec 8) (frame : List Word), s.readyOn ch →
    (s.getCtx ch).cfg.kind = .xcch ∨ (s.getCtx ch).cfg.kind = .sacch → (s.getCtx ch).enc.active = true →
    0 ≤ timeCmp hardware s.nowTime ((s.getCtx ch).resync hardware s.t0).enc.prevWT →
    let c1 := (s.getCtx ch).resync hardware s.t0
    let d : BitVec 184 := lsb8msb (unpackBits 184 frame)
    let u : BitVec 228 := (d ++ ~~~remainder 0x0004820009#40 d) ++ slice c1.enc.eU 224 4
    let rows := xcchInterleave (convEncode u)
    let c2 : Ctx := { c1 with enc := { c1.enc with eU := u, eC := convEncode u, eI4 := rows } }
    exec (.l2Data ch 0#16 frame) s = .next (State.answered
      { s with
        ctx := s.ctx.set ch.toNat (((Ctx.roll hardware)^[4]) c2)
        tx := s.tx ++ txRecordsOf ch c2 (rows.toList.map fun row => normalBurst hardware row true true (s.csr.bsic.extractLsb' 0 3))
        up := s.up ++ nextWtimesOf ch c2 4 } 0x40000000#32 [])

/-- Frames are queued on an open TCH context and discarded on a closed encoder: `L2_DATA` (R282, R327), which faults
`QUEUE_OVERFLOW` on a full FACCH queue, and `TCH_SPEECH_PUSH` (R326), which drops the oldest frame of a full queue. -/
def Obligations.FramesAreQueued : Prop :=
  ∀ (s : State) (ch : BitVec 8) (frame : List Word), s.readyOn ch → (s.getCtx ch).cfg.kind = .tch →
    let c := s.getCtx ch
    (c.enc.active = true → c.enc.facchQ.length < 8 →
      exec (.l2Data ch 0#16 frame) s = .next (State.answered (s.withCtx ch
        { c with enc := { c.enc with facchQ := c.enc.facchQ ++ [unpackBits 184 frame] } }) 0x40000000#32 [])) ∧
    (c.enc.active = true → c.enc.facchQ.length = 8 →
      exec (.l2Data ch 0#16 frame) s = .next (s.afterFault 0x40#8 ch 0x08#8)) ∧
    (c.enc.active = false → exec (.l2Data ch 0#16 frame) s = .next (s.answered 0x40000000#32 [])) ∧
    (c.enc.active = true → c.enc.speechQ.length ≠ 16 →
      exec (.tchSpeechPush ch 0#16 frame) s = .next (State.answered (s.withCtx ch
        { c with enc := { c.enc with speechQ := c.enc.speechQ ++ [unpackBits 260 frame] } }) 0x64000000#32 [])) ∧
    (c.enc.active = true → c.enc.speechQ.length = 16 →
      exec (.tchSpeechPush ch 0#16 frame) s = .next (State.answered (s.withCtx ch
        { c with enc := { c.enc with speechQ := c.enc.speechQ.tail ++ [unpackBits 260 frame] } }) 0x64000000#32 [])) ∧
    (c.enc.active = false → exec (.tchSpeechPush ch 0#16 frame) s = .next (s.answered 0x64000000#32 []))

/-- `L2_ESTABLISH` (R277, R279) opens both sides as the kind has them: the encoder restarts its burst count and schedule,
a TCH encoder its offset, flags and queues; the decoder restarts its FER, rows, stealing flags and ring, a RACH decoder
its queue, and the timers T3109, T3111 and, for an immediate assignment, T3101. Everything else stays, the start and
timeout of a stopped timer too (log entry 10). -/
def Obligations.L2EstablishOpens : Prop :=
  ∀ (s : State) (ch : BitVec 8) (arg : BitVec 16), s.readyOn ch → arg.toNat < 2 →
    let c := s.getCtx ch
    let k := c.cfg.kind
    let timed : Bool := k == .xcch || k == .sacch || k == .tch
    let enc1 : Encoder :=
      match c.cfg.txmap with
      | none => { c.enc with active := true, totalBursts := 0#32 }
      | some M =>
        { c.enc with
          active := true, totalBursts := 0#32
          nextWT := rollTo hardware ⟨s.nowTime.fn, c.cfg.tn⟩ (M.forward.getD 0 0).toNat M.p.toNat
          prevWT := ⟨s.nowTime.fn, c.cfg.tn⟩ }
    let enc2 : Encoder :=
      if k = .tch then
        { enc1 with offset := .zero, prevFACCH := false, curFACCH := false, facchQ := [], speechQ := [] }
      else enc1
    let dec2 : Decoder :=
      { c.dec with
        accepting := true, fer := 0#32
        dI4 := Vector.replicate 4 (Vector.replicate 114 127#8), dI8 := Vector.replicate 8 (Vector.replicate 114 127#8)
        dHl := Vector.replicate 8 127#8, dHu := Vector.replicate 8 127#8
        rssi := Vector.replicate 4 0#16, te := Vector.replicate 4 0#16, phyCnt := 0#2, phyNew := false
        rachQ := if k = .rach then [] else c.dec.rachQ
        t3109 := if timed then ⟨true, s.nowMs, s.csr.t3109Ms⟩ else c.dec.t3109
        t3111 := if timed then { c.dec.t3111 with armed := false } else c.dec.t3111
        t3101 :=
          if timed then
            if arg = 1#16 then ⟨true, s.nowMs, s.csr.t3101Ms⟩ else { c.dec.t3101 with armed := false }
          else c.dec.t3101 }
    exec (.l2Establish ch arg) s = .next (State.answered (s.withCtx ch
      { cfg := c.cfg
        enc := if k ≠ .none ∧ k ≠ .rach then enc2 else c.enc
        dec := if k = .rach ∨ k = .tch ∨ ((k = .xcch ∨ k = .sacch) ∧ c.cfg.rxmap.isSome) then dec2 else c.dec })
      0x41000000#32 [])

/-- `L2_RELEASE` (R278, R280) closes both sides and arms T3111; `L2_ERROR` (R281) closes only the encoder. Everything else
stays, the queues too, and the start and timeout of a stopped timer (log entry 10). -/
def Obligations.L2ReleaseAndErrorClose : Prop :=
  ∀ (s : State) (ch : BitVec 8), s.readyOn ch →
    let c := s.getCtx ch
    let k := c.cfg.kind
    let enc1 : Encoder := if k ≠ .none ∧ k ≠ .rach then { c.enc with active := false } else c.enc
    let dec1 : Decoder :=
      if k = .rach then { c.dec with accepting := false }
      else if k = .tch ∨ ((k = .xcch ∨ k = .sacch) ∧ c.cfg.rxmap.isSome) then
        { c.dec with
          accepting := false
          t3101 := { c.dec.t3101 with armed := false }
          t3109 := { c.dec.t3109 with armed := false }
          t3111 := ⟨true, s.nowMs, s.csr.t3111Ms⟩ }
      else c.dec
    exec (.l2Release ch 0#16) s
      = .next (State.answered (s.withCtx ch { cfg := c.cfg, enc := enc1, dec := dec1 }) 0x42000000#32 []) ∧
    exec (.l2Error ch 0#16) s = .next (State.answered (s.withCtx ch { c with enc := enc1 }) 0x43000000#32 [])

/-! ## Receive -/

/-- `RX_BURST` faults `DEMUX_MISCONFIG` exactly when the burst's `TN` differs from the context's or no `forward` entry of
the uplink mapping equals `FN mod p` (R245, R246), whether or not the decoder is active. Otherwise, on a decoder that is
closed or recyclable it is ignored (R286, R361); on an open RACH context it is queued, or dropped and counted where the
queue is full (R287). -/
def Obligations.RxBurstIgnoredOrQueued : Prop :=
  ∀ (s : State) (ch : BitVec 8) (time meas : Word) (sym : List Word) (M : Mapping), s.readyOn ch →
    legalTime hardware time = true → softPayloadLegal 148 sym = true →
    (s.getCtx ch).hasDecoder = true → (s.getCtx ch).cfg.rxmap = some M →
    let c := s.getCtx ch
    let onMap : Prop := time.extractLsb' 29 3 = c.cfg.tn ∧
      ∃ w ∈ M.forward, w.toNat = (time.extractLsb' 0 22).toNat % M.p.toNat
    (¬ onMap → exec (.rxBurst ch 0#16 time meas sym) s = .next (s.afterFault 0x50#8 ch 0x06#8)) ∧
    (onMap → c.dec.active s.nowMs = false →
      exec (.rxBurst ch 0#16 time meas sym) s = .next (s.answered 0x50000000#32 [])) ∧
    (onMap → c.dec.active s.nowMs = true → c.cfg.kind = .rach → c.dec.rachQ.length < 16 →
      exec (.rxBurst ch 0#16 time meas sym) s = .next (State.answered (s.withCtx ch
        { c with dec := { c.dec with rachQ := c.dec.rachQ ++
          [⟨timeOf time, meas.extractLsb' 16 16, meas.extractLsb' 0 16, vecOf 148 (wordSoft sym)⟩] } }) 0x50000000#32 [])) ∧
    (onMap → c.dec.active s.nowMs = true → c.cfg.kind = .rach → 16 ≤ c.dec.rachQ.length →
      exec (.rxBurst ch 0#16 time meas sym) s = .next (State.answered
        { s with csr := { s.csr with rachDrops := s.csr.rachDrops + 1#32 } } 0x50000000#32 []))

/-- `RX_BURST` on an active XCCH or SACCH decoder (R285, R290): the ring and row `B` are written; at `B = 3` the block is
deinterleaved, its rows erased, decoded and counted; a valid block is delivered with its timers and, for SACCH, its header
fields; an invalid one forwards nothing. `VD` is at its default (log entry 8); a stopped timer keeps its start and timeout
(log entry 10). -/
def Obligations.RxBurstDecodesControlBlock : Prop :=
  ∀ (s : State) (ch : BitVec 8) (time meas : Word) (sym : List Word) (M : Mapping), s.readyOn ch →
    legalTime hardware time = true → softPayloadLegal 148 sym = true →
    (s.getCtx ch).cfg.rxmap = some M →
    (s.getCtx ch).cfg.kind = .xcch ∨ (s.getCtx ch).cfg.kind = .sacch →
    demuxFails (s.getCtx ch) (timeOf time) = false → (s.getCtx ch).dec.active s.nowMs = true →
    let c := s.getCtx ch
    let B := (reverse M (timeOf time).fn % 4).toNat
    let d1 : Decoder :=
      { c.dec with
        rssi := c.dec.rssi.setIfInBounds c.dec.phyCnt.toNat (meas.extractLsb' 16 16)
        te := c.dec.te.setIfInBounds c.dec.phyCnt.toNat (meas.extractLsb' 0 16)
        phyCnt := c.dec.phyCnt + 1#2, phyNew := true
        dI4 := c.dec.dI4.setIfInBounds B (burstRow (vecOf 148 (wordSoft sym))) }
    let u := viterbi 228 (deinterleave 0 d1.dI4)
    let ok : Bool := syndrome 0x0004820009#40 (slice u 0 184 ++ ~~~slice u 184 40) == 0#40
    let d2 : Decoder :=
      { d1 with
        dC := deinterleave 0 d1.dI4, dI4 := Vector.replicate 4 (Vector.replicate 114 127#8)
        dU := ((if ok then lsb8msb (slice u 0 184) else slice u 0 184) ++ ~~~slice u 184 40) ++ slice u 224 4
        fer := if ok then ferGood hardware c.dec.fer else ferBad hardware c.dec.fer
        t3101 := if ok then { c.dec.t3101 with armed := false } else c.dec.t3101
        t3109 := if ok then ⟨true, s.nowMs, s.csr.t3109Ms⟩ else c.dec.t3109 }
    let d3 : Decoder :=
      { d2 with
        actualMSPower := slice d2.dU 3 5
        actualMSTiming := if (slice d2.dU 9 7).toNat ≤ 63 then slice d2.dU 9 7 else c.dec.actualMSTiming }
    exec (.rxBurst ch 0#16 time meas sym) s = .next (State.answered
      (if B ≠ 3 then s.withCtx ch { c with dec := d1 }
       else if ok = false then s.withCtx ch { c with dec := d2 }
       else if c.cfg.kind = .sacch then
         { s.withCtx ch { c with dec := d3 } with up := s.up ++
           [((0x11#8 ++ ch) ++ 10#16) :: timeWord (timeOf time) :: d1.meas :: ferGood hardware c.dec.fer
             :: (((0#19 ++ d3.actualMSPower) ++ 0#1) ++ d3.actualMSTiming) :: packBits (slice d2.dU 16 168)] }
       else
         { s.withCtx ch { c with dec := d2 } with up := s.up ++
           [((0x10#8 ++ ch) ++ 9#16) :: timeWord (timeOf time) :: d1.meas :: ferGood hardware c.dec.fer
             :: packBits (slice d2.dU 0 184)] }) 0x50000000#32 [])

/-- `RX_BURST` on an active TCH decoder (R328 to R330, R333 to R335): the ring, row `B` and its stealing flags are
written; at `B = 3` and `B = 7` the block at offset 4 or 0 is deinterleaved and its cells erased. A stolen block is
decoded as FACCH: if valid its frame is delivered; a `TCH_BAD` record follows either way. A speech block is decoded as
speech and delivered, or answered with `TCH_BAD` carrying the previous good frame. Each block is counted once; only a good
one restarts timers. `VD` and `FACCH_DETECT` are at their defaults (log entry 8); a stopped timer keeps its start and
timeout (log entry 10). -/
def Obligations.RxBurstDecodesTrafficBlock : Prop :=
  ∀ (s : State) (ch : BitVec 8) (time meas : Word) (sym : List Word) (M : Mapping), s.readyOn ch →
    legalTime hardware time = true → softPayloadLegal 148 sym = true →
    (s.getCtx ch).cfg.rxmap = some M → (s.getCtx ch).cfg.kind = .tch →
    demuxFails (s.getCtx ch) (timeOf time) = false → (s.getCtx ch).dec.active s.nowMs = true →
    let c := s.getCtx ch
    let b := vecOf 148 (wordSoft sym)
    let B := (reverse M (timeOf time).fn % 8).toNat
    let d1 : Decoder :=
      { c.dec with
        rssi := c.dec.rssi.setIfInBounds c.dec.phyCnt.toNat (meas.extractLsb' 16 16)
        te := c.dec.te.setIfInBounds c.dec.phyCnt.toNat (meas.extractLsb' 0 16)
        phyCnt := c.dec.phyCnt + 1#2, phyNew := true
        dI8 := c.dec.dI8.setIfInBounds B (burstRow b)
        dHl := c.dec.dHl.setIfInBounds B (b.getD 60 0), dHu := c.dec.dHu.setIfInBounds B (b.getD 87 0) }
    let o : Nat := if B = 3 then 4 else 0
    let q := deinterleave o d1.dI8
    let flags : Nat :=
      (d1.dHu.getD o 0).toNat + (d1.dHu.getD (o + 1) 0).toNat + (d1.dHu.getD (o + 2) 0).toNat
        + (d1.dHu.getD (o + 3) 0).toNat + (d1.dHl.getD (4 - o) 0).toNat + (d1.dHl.getD (5 - o) 0).toNat
        + (d1.dHl.getD (6 - o) 0).toNat + (d1.dHl.getD (7 - o) 0).toNat
    let u := viterbi 228 q
    let ok : Bool := syndrome 0x0004820009#40 (slice u 0 184 ++ ~~~slice u 184 40) == 0#40
    let x := tchDecode hardware q
    let good : Bool := if 1016 < flags then ok else x.good
    let d2 : Decoder :=
      { d1 with
        dC := q, dI8 := eraseConsumed o d1.dI8
        fer := if good then ferGood hardware c.dec.fer else ferBad hardware c.dec.fer
        t3101 := if good then { c.dec.t3101 with armed := false } else c.dec.t3101
        t3109 := if good then ⟨true, s.nowMs, s.csr.t3109Ms⟩ else c.dec.t3109 }
    let dF : Decoder :=
      { d2 with dU := ((if ok then lsb8msb (slice u 0 184) else slice u 0 184) ++ ~~~slice u 184 40) ++ slice u 224 4 }
    let dS : Decoder := { d2 with dTU := x.dTU, dTD := x.dTD, prevGood := if good then x.s else c.dec.prevGood }
    let bad (fer : Word) : List Word :=
      ((0x13#8 ++ ch) ++ 12#16) :: timeWord (timeOf time) :: d1.meas :: fer :: packBits c.dec.prevGood
    exec (.rxBurst ch 0#16 time meas sym) s = .next (State.answered
      (if B % 4 ≠ 3 then s.withCtx ch { c with dec := d1 }
       else if 1016 < flags then
         { s.withCtx ch { c with dec := dF } with up := s.up ++
           ((if ok then [((0x10#8 ++ ch) ++ 9#16) :: timeWord (timeOf time) :: d1.meas :: d2.fer
             :: packBits (slice dF.dU 0 184)] else []) ++ [bad d2.fer]) }
       else
         { s.withCtx ch { c with dec := dS } with up := s.up ++
           (if good then [((0x12#8 ++ ch) ++ 12#16) :: timeWord (timeOf time) :: d1.meas :: d2.fer :: packBits x.s]
            else [bad d2.fer]) }) 0x50000000#32 [])

/-- `RACH_SERVICE` (R288, R289) on an empty queue answers 0 and changes nothing; else it takes the oldest burst, decodes
it, tests it against `BSIC` and, if it is valid, counts it good, delivers it and answers its `RA` and its timing advance
(rounded half away from zero, clamped to 0 … 63); if not, it counts it bad. It runs whether or not the decoder is open.
`VD` and the generator `G_RACH` are parameters at their defaults (log entry 8). -/
def Obligations.RachServiceServesOldestBurst : Prop :=
  ∀ (s : State) (ch : BitVec 8), s.readyOn ch → (s.getCtx ch).cfg.kind = .rach →
    let c := s.getCtx ch
    (c.dec.rachQ = [] → exec (.rachService ch 0#16) s = .next (s.answered 0x51000001#32 [0#32])) ∧
    (∀ b q, c.dec.rachQ = b :: q →
      let u := viterbi 18 (vecOf 36 fun i => b.sym.getD (49 + i) 0)
      let valid : Bool := slice u 14 4 == 0#4
        && (~~~slice u 8 6 ^^^ remainder 0x2F#6 (slice u 0 8)) == s.csr.bsic.extractLsb' 0 6
      let ra : BitVec 8 := lsb8msb (slice u 0 8)
      let ta : BitVec 8 := if b.te.toInt ≤ 0 then 0#8 else BitVec.ofNat 8 (min ((b.te.toNat + 128) / 256) 63)
      exec (.rachService ch 0#16) s =
        if valid then
          .next (State.answered
            { s.withCtx ch { c with dec := { c.dec with rachQ := q, fer := ferGood hardware c.dec.fer } } with up := s.up ++
              [[(0x14#8 ++ ch) ++ 3#16, timeWord b.time, (b.rssi ++ ra) ++ ta, ferGood hardware c.dec.fer]] }
            0x51000001#32 [((0#8 ++ ta) ++ ra) ++ 3#8])
        else
          .next (State.answered
            (s.withCtx ch { c with dec := { c.dec with rachQ := q, fer := ferBad hardware c.dec.fer } }) 0x51000001#32 [1#32]))

/-! ## Transmit scheduling -/

/-- `IDLE_FILL` (R293) rolls the schedule `m` times, `m` the length of the downlink mapping; on C0 each roll follows a
dummy burst at `nextWT`, elsewhere nothing is sent; each gives its `NEXT_WTIME` record. It neither resyncs nor waits, and
runs whether or not the encoder is open. -/
def Obligations.IdleFillRollsOnePeriod : Prop :=
  ∀ (s : State) (ch : BitVec 8) (M : Mapping), s.readyOn ch → (s.getCtx ch).cfg.txmap = some M →
    (s.getCtx ch).cfg.kind = .xcch ∨ (s.getCtx ch).cfg.kind = .sacch ∨ (s.getCtx ch).cfg.kind = .tch →
    let c := s.getCtx ch
    exec (.idleFill ch 0#16) s = .next (State.answered
      { s with
        ctx := s.ctx.set ch.toNat (((Ctx.roll hardware)^[M.forward.length]) c)
        tx := s.tx ++ (if c.cfg.c0 then txRecordsOf ch c (List.replicate M.forward.length Config.dummyBurst) else [])
        up := s.up ++ nextWtimesOf ch c M.forward.length } 0x60000000#32 [])

/-- `SCH_SEND` (R223, R291) and `FCCH_SEND` (R222, R292) on an open context whose wait is over resync and send one burst:
the coded halves around the extended training sequence, or all zeros. The generator `G_SCH` is a parameter at its default
(log entry 8). -/
def Obligations.BeaconsSendOneBurst : Prop :=
  ∀ (s : State) (ch : BitVec 8) (data : Word), s.readyOn ch → (s.getCtx ch).enc.active = true →
    0 ≤ timeCmp hardware s.nowTime ((s.getCtx ch).resync hardware s.t0).enc.prevWT →
    let c1 := (s.getCtx ch).resync hardware s.t0
    let cc : BitVec 78 := convEncode ((data.extractLsb' 7 25 ++ ~~~remainder 0x175#10 (data.extractLsb' 7 25)) ++ 0#4)
    let sent (bits : BitVec 148) : State :=
      { s with
        ctx := s.ctx.set ch.toNat (c1.roll hardware)
        tx := s.tx ++ [((0x01#8 ++ ch) ++ c1.cfg.arfcn) :: timeWord c1.enc.nextWT :: packBits bits]
        up := s.up ++ [[(0x15#8 ++ ch) ++ 1#16, timeWord (c1.roll hardware).enc.nextWT]] }
    ((s.getCtx ch).cfg.kind = .sch →
      exec (.schSend ch 0#16 data) s = .next ((sent
        ((((0#3 ++ slice cc 0 39) ++ Config.schTrain) ++ slice cc 39 39) ++ 0#3)).answered 0x61000000#32 [])) ∧
    ((s.getCtx ch).cfg.kind = .fcch → exec (.fcchSend ch 0#16) s = .next ((sent 0#148).answered 0x62000000#32 []))

/-- `TCH_SEND_SLOT` on an open context whose wait is over (R322 to R325): the latency cap drops the oldest speech frames,
a FACCH frame goes first and flushes the speech queue, else a speech frame, else the filler; the block is interleaved
diagonally at the offset and rows `offset … offset+3` go out with `Hl = prevFACCH`, `Hu = curFACCH`; then `prevFACCH`
follows and the offset toggles. -/
def Obligations.TchSendSlotSendsFourBursts : Prop :=
  ∀ (s : State) (ch : BitVec 8), s.readyOn ch → (s.getCtx ch).cfg.kind = .tch → (s.getCtx ch).enc.active = true →
    0 ≤ timeCmp hardware s.nowTime ((s.getCtx ch).resync hardware s.t0).enc.prevWT →
    let c1 := (s.getCtx ch).resync hardware s.t0
    let cap := s.csr.maxSpeechLatency.toNat
    let e1 : Encoder := { c1.enc with speechQ := c1.enc.speechQ.drop (c1.enc.speechQ.length - cap) }
    let e2 : Encoder :=
      match e1.facchQ, e1.speechQ with
      | f :: fs, _ =>
        let u : BitVec 228 :=
          (lsb8msb f ++ ~~~remainder 0x0004820009#40 (lsb8msb f)) ++ slice e1.eU 224 4
        { e1 with facchQ := fs, speechQ := [], curFACCH := true, eU := u, eC := convEncode u }
      | [], x :: xs =>
        { e1 with
          speechQ := xs, curFACCH := false, tD := tchReorder hardware x
          tU := tchFold hardware (tchReorder hardware x), eC := tchEncode hardware x }
      | [], [] => { e1 with curFACCH := false, eC := Config.tchFiller }
    let o : Nat := if e1.offset = .zero then 0 else 4
    let rows := interleave o e2.eC e1.eI8
    let c2 : Ctx := { c1 with enc := { e2 with eI8 := rows } }
    let bursts := [0, 1, 2, 3].map fun B =>
      normalBurst hardware (rows.getD (o + B) 0) e1.prevFACCH e2.curFACCH (s.csr.bsic.extractLsb' 0 3)
    let c3 := ((Ctx.roll hardware)^[4]) c2
    exec (.tchSendSlot ch 0#16) s = .next (State.answered
      { s with
        ctx := s.ctx.set ch.toNat
          { c3 with enc := { c3.enc with
            prevFACCH := e2.curFACCH, offset := if e1.offset = .zero then .four else .zero } }
        tx := s.tx ++ txRecordsOf ch c2 bursts
        up := s.up ++ nextWtimesOf ch c2 4 } 0x63000000#32 [])

/-- Where the wait of `waitToSend` is not over, each of the five waiting commands holds: the state is unchanged but for
the command being held with its `t0` (R249, R392, R88; log entry 9); and each sending command on a closed encoder
completes with no effect (R282, R291, R292, R324, R380). -/
def Obligations.SendersHoldOrDiscard : Prop :=
  ∀ (s : State) (ch : BitVec 8) (data : Word) (frame : List Word), s.readyOn ch →
    let k := (s.getCtx ch).cfg.kind
    ((s.getCtx ch).enc.active = true → timeCmp hardware s.nowTime ((s.getCtx ch).resync hardware s.t0).enc.prevWT < 0 →
      (k = .xcch ∨ k = .sacch → exec (.l2Data ch 0#16 frame) s = .next (s.holding (.l2Data ch 0#16 frame))) ∧
      (k = .sch → exec (.schSend ch 0#16 data) s = .next (s.holding (.schSend ch 0#16 data))) ∧
      (k = .fcch → exec (.fcchSend ch 0#16) s = .next (s.holding (.fcchSend ch 0#16))) ∧
      (k = .tch → exec (.tchSendSlot ch 0#16) s = .next (s.holding (.tchSendSlot ch 0#16)))) ∧
    (timeCmp hardware s.nowTime (s.getCtx ch).enc.prevWT < 0 → k.hasEncoder = true →
      exec (.waitToSend ch 0#16) s = .next (s.holding (.waitToSend ch 0#16))) ∧
    ((s.getCtx ch).enc.active = false →
      (k = .xcch ∨ k = .sacch → exec (.l2Data ch 0#16 frame) s = .next (s.answered 0x40000000#32 [])) ∧
      (k = .sch → exec (.schSend ch 0#16 data) s = .next (s.answered 0x61000000#32 [])) ∧
      (k = .fcch → exec (.fcchSend ch 0#16) s = .next (s.answered 0x62000000#32 [])) ∧
      (k = .tch → exec (.tchSendSlot ch 0#16) s = .next (s.answered 0x63000000#32 [])))

/-- `RESYNC` (R248, R250, R256) reseats the schedule exactly when `nextWT` lies before the clock or more than 1326 frames
after it: `nextWT` becomes the next time from the clock's frame at the offset `forward[totalBursts mod m]`, `prevWT` the
clock's frame, both on the context's timeslot. `WAIT_TO_SEND` (R257) completes at once when the clock has reached
`prevWT`, and changes nothing. -/
def Obligations.ResyncAndWaitComplete : Prop :=
  ∀ (s : State) (ch : BitVec 8), s.readyOn ch → (s.getCtx ch).cfg.kind.hasEncoder = true →
    let c := s.getCtx ch
    let d : Int := ((c.enc.nextWT.fn : Int) - s.nowTime.fn + 1357824) % 2715648 - 1357824
    (∀ M, c.cfg.txmap = some M → d < 0 ∨ 1326 < d →
      ∃ n : Time, n.tn = c.cfg.tn ∧
        (n.fn : Int) = (s.nowTime.fn
          + ((M.forward.getD (c.enc.totalBursts.toNat % M.forward.length) 0).toNat - (s.nowTime.fn : Int)) % M.p.toNat)
          % 2715648 ∧
        exec (.resync ch 0#16) s = .next (State.answered (s.withCtx ch
          { c with enc := { c.enc with nextWT := n, prevWT := ⟨s.nowTime.fn, c.cfg.tn⟩ } }) 0x65000000#32 [])) ∧
    (0 ≤ d → d ≤ 1326 → exec (.resync ch 0#16) s = .next (s.answered 0x65000000#32 [])) ∧
    (0 ≤ timeCmp hardware s.nowTime c.enc.prevWT → exec (.waitToSend ch 0#16) s = .next (s.answered 0x66000000#32 []))

/-! ## Measurement -/

/-- `PHY_READ` (R364) answers the signed sums of the rings and `phyNew | phyCnt << 1`, then clears `phyNew`; `FER_GOOD`
(R351, R353) and `FER_BAD` (R352, R354) filter the error rate. Nothing else changes. -/
def Obligations.MeasurementCommandsAnswer : Prop :=
  ∀ (s : State) (ch : BitVec 8), s.readyOn ch → (s.getCtx ch).hasDecoder = true →
    let c := s.getCtx ch
    (c.cfg.kind = .xcch ∨ c.cfg.kind = .sacch ∨ c.cfg.kind = .tch →
      ∃ w0 w1 : Word,
        exec (.phyRead ch 0#16) s = .next (State.answered (s.withCtx ch { c with dec := { c.dec with phyNew := false } })
          0x70000003#32 [w0, w1, (0#29 ++ c.dec.phyCnt) ++ BitVec.ofBool c.dec.phyNew]) ∧
        w0.toInt = c.dec.rssi[0].toInt + c.dec.rssi[1].toInt + c.dec.rssi[2].toInt + c.dec.rssi[3].toInt ∧
        w1.toInt = c.dec.te[0].toInt + c.dec.te[1].toInt + c.dec.te[2].toInt + c.dec.te[3].toInt) ∧
    (∃ f : Word, f.toNat = c.dec.fer.toNat * 207 / 208 ∧
      exec (.ferGood ch 0#16) s
        = .next (State.answered (s.withCtx ch { c with dec := { c.dec with fer := f } }) 0x71000000#32 [])) ∧
    (∃ f : Word, f.toNat = c.dec.fer.toNat * 207 / 208 + 20648881 ∧
      exec (.ferBad ch 0#16) s
        = .next (State.answered (s.withCtx ch { c with dec := { c.dec with fer := f } }) 0x72000000#32 []))

/-- R350 to R352, R355: the filter never overflows; from 0, 208 bad frames give 2718742812, the 3615th bad frame is the
first to reach `0xFFFFFF01`, and that value stays. -/
def Obligations.FerFilterBounds : Prop :=
  (∀ f : BitVec 32, (ferGood hardware f).toNat ≤ 4274318413 ∧ (ferBad hardware f).toNat ≤ 4294967294 ∧
    (ferBad hardware f).toNat = (ferGood hardware f).toNat + 20648881) ∧
  ((ferBad hardware)^[208]) 0#32 = 2718742812#32 ∧ ((ferBad hardware)^[3614]) 0#32 ≠ 0xFFFFFF01#32 ∧
  ∀ n, 3615 ≤ n → ((ferBad hardware)^[n]) 0#32 = 0xFFFFFF01#32

/-! ## TDMA arithmetic and mappings -/

/-- `FN_ADD` (R240, R251), `FN_DELTA` (R241, R252) and `TIME_CMP` (R242, R253) on legal time words: the sum modulo the
hyperframe on the same timeslot, the difference in the half-open window, the order by difference and then by timeslot;
nothing changes. -/
def Obligations.TimeCommandsAnswer : Prop :=
  ∀ (s : State) (a b k : Word), s.ready →
    a.extractLsb' 22 7 = 0#7 → (a.extractLsb' 0 22).toNat < 2715648 →
    let fa : Int := (a.extractLsb' 0 22).toNat
    let fb : Int := (b.extractLsb' 0 22).toNat
    (∃ w : Word, exec (.fnAdd 0#8 0#16 a k) s = .next (s.answered 0x80000001#32 [w]) ∧
      w.extractLsb' 29 3 = a.extractLsb' 29 3 ∧ w.extractLsb' 22 7 = 0#7 ∧
      ((w.extractLsb' 0 22).toNat : Int) = (fa + k.toInt) % 2715648) ∧
    (b.extractLsb' 22 7 = 0#7 → (b.extractLsb' 0 22).toNat < 2715648 →
      ∃ d w : Word, exec (.fnDelta 0#8 0#16 a b) s = .next (s.answered 0x81000001#32 [d]) ∧
        -1357824 ≤ d.toInt ∧ d.toInt < 1357824 ∧ (2715648 : Int) ∣ fa - fb - d.toInt ∧
        exec (.timeCmp 0#8 0#16 a b) s = .next (s.answered 0x82000001#32 [w]) ∧
        w.toInt = if d.toInt ≠ 0 then d.toInt.sign
          else ((a.extractLsb' 29 3).toNat - (b.extractLsb' 29 3).toNat : Int).sign)

/-- `MAP_REVERSE` (R245, R254) answers the first index whose `forward` entry is the frame's offset in the period, or −1 if
there is none; `MAP_ROLL` (R243, R255) the next time at offset `forward[k mod m]`. Both read the mapping `dir` selects and
change nothing (R90). -/
def Obligations.MappingCommandsAnswer : Prop :=
  ∀ (s : State) (ch : BitVec 8) (arg : BitVec 16) (t k : Word) (M : Mapping), s.readyOn ch → arg.toNat < 2 →
    t.extractLsb' 22 7 = 0#7 → (t.extractLsb' 0 22).toNat < 2715648 →
    (if arg = 1#16 then (s.getCtx ch).cfg.rxmap else (s.getCtx ch).cfg.txmap) = some M → M.forward.length ≤ 255 →
    let fn := (t.extractLsb' 0 22).toNat
    (∃ w : Word, exec (.mapReverse ch arg t) s = .next (s.answered 0x83000001#32 [w]) ∧
      ((w.toInt = -1 ∧ ∀ x ∈ M.forward, x.toNat ≠ fn % M.p.toNat) ∨
        ∃ i, ∃ h : i < M.forward.length, w.toInt = i ∧ M.forward[i].toNat = fn % M.p.toNat ∧
          ∀ j, ∀ hj : j < i, (M.forward[j]).toNat ≠ fn % M.p.toNat)) ∧
    (∃ w : Word, exec (.mapRoll ch arg t k) s = .next (s.answered 0x84000001#32 [w]) ∧
      w.extractLsb' 29 3 = t.extractLsb' 29 3 ∧ w.extractLsb' 22 7 = 0#7 ∧
      ((w.extractLsb' 0 22).toNat : Int)
        = (fn + ((M.forward.getD (k.toNat % M.forward.length) 0).toNat - (fn : Int)) % M.p.toNat) % 2715648)

/-- The schedule moves forward (R243, R244, R247, R259): for a context whose downlink mapping is well-formed and whose
`nextWT` lies on it, a roll forward stores the old `nextWT` as `prevWT`, counts the burst and advances `nextWT` by `d`
frames, `1 ≤ d < p`, to the next mapped offset; if `d` is less than half a hyperframe the new time is later in TDMA order.
The burst counter's wrap is excluded (R427, I21). -/
def Obligations.RollForwardAdvances : Prop :=
  ∀ (c : Ctx) (M : Mapping), c.cfg.txmap = some M → mappingWf hardware c.cfg.kind c.cfg.tn true M = true →
    c.onSchedule = true → c.enc.totalBursts.toNat + 1 < 2 ^ 32 →
    (c.roll hardware).enc.prevWT = c.enc.nextWT ∧ (c.roll hardware).enc.totalBursts.toNat = c.enc.totalBursts.toNat + 1 ∧
    (c.roll hardware).enc.nextWT.tn = c.enc.nextWT.tn ∧
    ∃ d : Nat, 1 ≤ d ∧ d < M.p.toNat ∧ (c.roll hardware).enc.nextWT.fn = (c.enc.nextWT.fn + d) % 2715648 ∧
      (c.roll hardware).enc.nextWT.fn % M.p.toNat = frameMapping M (c.roll hardware).enc.totalBursts.toNat ∧
      (d < 1357824 → timeCmp hardware (c.roll hardware).enc.nextWT c.enc.nextWT = 1)

/-! ## The coding laws -/

/-- `LSB8MSB` (R150) applied twice is the identity, for every length (the spec infers it from R150 in R153). -/
def Obligations.Lsb8msbInvolution : Prop := ∀ (n : Nat) (v : BitVec n), lsb8msb (lsb8msb v) = v

/-- The bit-serial remainder is `(D(x)·x^r) mod g(x)` and the bit-serial syndrome is `DP(x) mod g(x)` over GF(2) (R12,
R160, R161), for every generator of degree `r`; so a codeword has syndrome 0, one with inverted parity has all ones, and
the syndrome is linear. -/
def Obligations.ParityIsPolynomialDivision : Prop :=
  ∀ (r : Nat) (g : BitVec r) (G : Polynomial (ZMod 2)), IsPolyOf g G →
    (∀ (k : Nat) (d : BitVec k) (D : Polynomial (ZMod 2)), IsPolyOf d D →
      IsPolyOf (remainder g d) (Polynomial.modByMonic (D * Polynomial.X ^ r) (Polynomial.X ^ r + G)) ∧
      IsPolyOf (syndrome g d) (Polynomial.modByMonic D (Polynomial.X ^ r + G)) ∧
      syndrome g (d ++ remainder g d) = 0#r ∧ syndrome g (d ++ ~~~remainder g d) = BitVec.allOnes r) ∧
    ∀ (n : Nat) (a e : BitVec n), syndrome g (a ^^^ e) = syndrome g a ^^^ syndrome g e

/-- The convolutional code (R190) is linear (the spec infers it from R190 in R193). -/
def Obligations.ConvEncodeIsLinear : Prop :=
  ∀ n : Nat, (∀ a b : BitVec n, convEncode (a ^^^ b) = convEncode a ^^^ convEncode b) ∧ convEncode 0#n = 0#(2 * n)

/-- The Viterbi search is the maximum-likelihood decoder `VD_ML` of R196, the default of the parameter `VD` (log entry 8):
no input of the same length has a larger metric (R195), and of those with the largest metric it answers the
lexicographically smallest (the number with the first bit most significant). -/
def Obligations.ViterbiIsMaximumLikelihood : Prop :=
  ∀ (n : Nat) (q : Vector Soft (2 * n)) (v : BitVec n),
    let score (u : BitVec n) : Int :=
      ∑ i : Fin (2 * n), ((q[i].toNat : Int) - 127) * (if (convEncode u).getMsbD i then 1 else -1)
    score v < score (viterbi n q) ∨ (score v = score (viterbi n q) ∧ (viterbi n q).toNat ≤ v.toNat)

/-- The default `VD_ML` (log entry 8) obeys the clean-codeword law (R196 law 1), which binds every `VD`: decoding the
hard-decision image of a codeword gives back its input, terminated or not. So the parameters of this spec's hardware are
lawful, and the step of the block that has them is `step`. -/
def Obligations.ViterbiDecodesCleanCodewords : Prop :=
  (∀ (n : Nat) (u : BitVec n), viterbi n (image (convEncode u)) = u) ∧
  ∃ h : LawfulParams hardware, stepFor ⟨hardware, h⟩ = step

/-- Round trips of R210, R211, R214, R215, R218, R219 (the spec infers them in R225): deinterleaving the hard images of
interleaved rows gives the image of the coded bits, for XCCH and for TCH at either offset and over any previous rows;
unmapping a mapped burst gives the row and the flags, whatever the parameters. -/
def Obligations.InterleavingRoundTrips : Prop :=
  (∀ c : BitVec 456, deinterleave 0 ((xcchInterleave c).map image) = image c) ∧
  (∀ (off : Nat) (c : BitVec 456) (rows : Vector (BitVec 114) 8), off = 0 ∨ off = 4 →
    deinterleave off ((interleave off c rows).map image) = image c) ∧
  (∀ (P : Config.Params) (row : BitVec 114) (hl hu : Bool) (t : BitVec 3),
    burstRow (image (normalBurst P row hl hu t)) = image row ∧
    burstHl (image (normalBurst P row hl hu t)) = softOf hl ∧ burstHu (image (normalBurst P row hl hu t)) = softOf hu)

/-- Round trip of a control frame (T1 of 95_test_vectors.md; R172, R173, R196): for every frame, `XCCH_DECODE` of the
hard-decision image of what `XCCH_CODE` answers says valid and answers the frame; on this spec's hardware (log entry 8)
and on every block whose parameters are lawful, whatever its `VD`. -/
def Obligations.XcchRoundTrip : Prop :=
  ∀ (s s' : State) (frame : List Word), s.ready → s'.ready →
    ∃ ws, exec (.xcchCode 0#8 0#16 frame) s = .next (s.answered 0x2300000F#32 ws) ∧
      exec (.xcchDecode 0#8 0#16 (packSoft (image (unpackBits 456 ws)))) s'
        = .next (s'.answered 0x24000007#32 (1#32 :: packBits (unpackBits 184 frame))) ∧
    ∀ P : BlockParams, ∃ ws, execFor P (.xcchCode 0#8 0#16 frame) s = .next (s.answered 0x2300000F#32 ws) ∧
      execFor P (.xcchDecode 0#8 0#16 (packSoft (image (unpackBits 456 ws)))) s'
        = .next (s'.answered 0x24000007#32 (1#32 :: packBits (unpackBits 184 frame)))

/-- Round trip of a speech frame (T2 of 95_test_vectors.md; R320, R321, R331, R332), whatever the permutation `TCH_ORDER`:
for every frame, `TCH_SPEECH_DECODE` of the hard-decision image of what `TCH_SPEECH_ENCODE` answers says good, parity and
tail in order, and answers the frame; on this spec's hardware (log entry 8) and on every block whose parameters are lawful,
whatever its `VD`. -/
def Obligations.TchRoundTrip : Prop :=
  ∀ (s s' : State) (frame : List Word), s.ready → s'.ready →
    ∃ ws, exec (.tchSpeechEncode 0#8 0#16 frame) s = .next (s.answered 0x3800000F#32 ws) ∧
      exec (.tchSpeechDecode 0#8 0#16 (packSoft (image (unpackBits 456 ws)))) s'
        = .next (s'.answered 0x3900000A#32 (7#32 :: packBits (unpackBits 260 frame))) ∧
    ∀ P : BlockParams, ∃ ws, execFor P (.tchSpeechEncode 0#8 0#16 frame) s = .next (s.answered 0x3800000F#32 ws) ∧
      execFor P (.tchSpeechDecode 0#8 0#16 (packSoft (image (unpackBits 456 ws)))) s'
        = .next (s'.answered 0x3900000A#32 (7#32 :: packBits (unpackBits 260 frame)))

end
end

