-- ==== Sys2Proof/Laws/Bits.lean ====
section
/-! SUPPORT. What each operation on bit and soft vectors reads as, element by element in the spec's order (R8, R9). -/

namespace Sys2Proof.Machine

/-! ## Building vectors -/

theorem getMsbD_concat {n : Nat} (v : BitVec n) (b : Bool) (i : Nat) :
    (v.concat b).getMsbD i = if i < n then v.getMsbD i else decide (i = n) && b := by
  rw [BitVec.getMsbD_eq_getLsbD, BitVec.getLsbD_concat, BitVec.getMsbD_eq_getLsbD]
  rcases Nat.lt_trichotomy i n with h | h | h
  · simp [h, show n - i ≠ 0 by omega, show i < n + 1 by omega, show n - i - 1 = n - 1 - i by omega]
  · subst h; simp
  · simp [show ¬ i < n by omega, show ¬ i = n by omega, show ¬ i < n + 1 by omega]

/-- Element `i` of `bitsOf n f` is `f i`. -/
theorem getMsbD_bitsOf (n : Nat) (f : Nat → Bool) (i : Nat) :
    (bitsOf n f).getMsbD i = (decide (i < n) && f i) := by
  induction n with
  | zero => simp [bitsOf]
  | succ n ih =>
    rw [bitsOf, getMsbD_concat, ih]
    rcases Nat.lt_trichotomy i n with h | h | h
    · simp [h, show i < n + 1 by omega]
    · subst h; simp
    · simp [show ¬ i < n by omega, show ¬ i = n by omega, show ¬ i < n + 1 by omega]

/-- Two bit vectors with the same elements are equal. -/
theorem eq_of_getMsbD {n : Nat} {u v : BitVec n} (h : ∀ i, i < n → u.getMsbD i = v.getMsbD i) : u = v :=
  BitVec.eq_of_getMsbD_eq h

/-- The elements of a vector built from itself. -/
theorem bitsOf_getMsbD {n : Nat} (v : BitVec n) : bitsOf n v.getMsbD = v :=
  eq_of_getMsbD fun i hi => by rw [getMsbD_bitsOf]; simp [hi]

/-- Element `i` of `vecOf n f` is `f i`. -/
@[simp] theorem getElem_vecOf {α : Type} (n : Nat) (f : Nat → α) (i : Nat) (h : i < n) : (vecOf n f)[i] = f i := by
  simp [vecOf]

@[simp] theorem getD_vecOf {α : Type} (n : Nat) (f : Nat → α) (i : Nat) (d : α) (h : i < n) :
    (vecOf n f).getD i d = f i := by
  simp [Vector.getD, h]

@[simp] theorem length_bitList {n : Nat} (v : BitVec n) : (bitList v).length = n := by simp [bitList]

@[simp] theorem getElem_bitList {n : Nat} (v : BitVec n) (i : Nat) (h : i < (bitList v).length) :
    (bitList v)[i] = v.getMsbD i := by
  simp [bitList]

/-! ## Views -/

/-- Element `i` of a slice inside the vector. -/
theorem getMsbD_slice {n : Nat} (v : BitVec n) {pos len : Nat} (h : pos + len ≤ n) (i : Nat) :
    (slice v pos len).getMsbD i = (decide (i < len) && v.getMsbD (pos + i)) := by
  rw [slice, BitVec.getMsbD_eq_getLsbD, BitVec.getLsbD_extractLsb', BitVec.getMsbD_eq_getLsbD]
  by_cases hi : i < len
  · simp [hi, show len - 1 - i < len by omega, show pos + i < n by omega,
      show n - pos - len + (len - 1 - i) = n - 1 - (pos + i) by omega]
  · simp [hi]

/-- Element `i` after a `fill` (R9). -/
theorem getMsbD_fill {n : Nat} (v : BitVec n) (pos len x i : Nat) :
    (fill v pos len x).getMsbD i =
      (decide (i < n) && if pos ≤ i ∧ i < pos + len then x.testBit (len - 1 - (i - pos)) else v.getMsbD i) :=
  getMsbD_bitsOf n _ i

/-- Element `i` after a write through a view (R8). -/
theorem getMsbD_writeView {n len : Nat} (v : BitVec n) (pos : Nat) (x : BitVec len) (i : Nat) :
    (writeView v pos x).getMsbD i =
      (decide (i < n) && if pos ≤ i ∧ i < pos + len then x.getMsbD (i - pos) else v.getMsbD i) := by
  rw [writeView, getMsbD_fill]
  congr 1
  split
  · rename_i h
    rw [BitVec.getMsbD_eq_getLsbD, BitVec.testBit_toNat]
    simp [show i - pos < len by omega]
  · rfl

/-- Element `i` of `LSB8MSB(v)` (R150). -/
theorem getMsbD_lsb8msb {n : Nat} (v : BitVec n) (i : Nat) :
    (lsb8msb v).getMsbD i =
      (decide (i < n) && if i / 8 < n / 8 then v.getMsbD (8 * (i / 8) + (7 - i % 8)) else v.getMsbD i) :=
  getMsbD_bitsOf n _ i

/-- Element `j` after setting element `i`. -/
theorem getMsbD_setBit {n : Nat} (v : BitVec n) {i : Nat} (hi : i < n) (b : Bool) (j : Nat) :
    (setBit v i b).getMsbD j = if j = i then b else v.getMsbD j := by
  by_cases hj : j < n
  · rw [setBit]
    cases b
    · simp only [Bool.false_eq_true, if_false, BitVec.getMsbD_eq_getLsbD, BitVec.getLsbD_and, BitVec.getLsbD_not,
        BitVec.getLsbD_twoPow, hj, decide_true, Bool.true_and]
      by_cases e : j = i
      · subst e; simp [show n - 1 - j < n by omega]
      · simp [e, show ¬ n - 1 - i = n - 1 - j by omega, show n - 1 - j < n by omega]
    · simp only [if_true, BitVec.getMsbD_eq_getLsbD, BitVec.getLsbD_or, BitVec.getLsbD_twoPow, hj, decide_true,
        Bool.true_and]
      by_cases e : j = i
      · subst e; simp [show n - 1 - j < n by omega]
      · simp [e, show ¬ n - 1 - i = n - 1 - j by omega]
  · simp [show ¬ j = i by omega, BitVec.getMsbD_of_ge _ _ (Nat.le_of_not_lt hj)]

/-! ## Hard decisions -/

@[simp] theorem hard_softOf (b : Bool) : hard (softOf b) = b := by cases b <;> decide

theorem softOf_ne_illegal (b : Bool) : softOf b ≠ illegalSoft := by cases b <;> decide

/-- A hard-decision image holds no illegal code. -/
theorem legalSoft_image {n : Nat} (v : BitVec n) : legalSoft (image v) = true := by
  simp only [legalSoft, image, vecOf, Vector.toList, List.all_eq_true]
  intro q hq
  obtain ⟨i, -, rfl⟩ : ∃ i < n, softOf (v.getMsbD i) = q := by simpa using hq
  simpa using softOf_ne_illegal _

/-! ## Packing -/

@[simp] theorem length_packBits {n : Nat} (v : BitVec n) : (packBits v).length = bitWords n := by simp [packBits]

@[simp] theorem length_packSoft {n : Nat} (v : Vector Soft n) : (packSoft v).length = softWords n := by
  simp [packSoft]

/-- Element `i` of a vector read from payload words (R114). -/
theorem getMsbD_unpackBits (n : Nat) (ws : List Word) (i : Nat) :
    (unpackBits n ws).getMsbD i = (decide (i < n) && (ws.getD (i / 32) 0).getMsbD (i % 32)) :=
  getMsbD_bitsOf n _ i

/-- Reading what was packed gives the vector back. -/
theorem unpackBits_packBits {n : Nat} (v : BitVec n) : unpackBits n (packBits v) = v :=
  eq_of_getMsbD fun i hi => by
    have hw : i / 32 < bitWords n := by unfold bitWords; omega
    rw [getMsbD_unpackBits]
    simp only [hi, decide_true, Bool.true_and, packBits]
    rw [List.getD_eq_getElem?_getD, List.getElem?_map, List.getElem?_range hw]
    simp only [Option.map_some, Option.getD_some, getMsbD_bitsOf]
    simp [Nat.mod_lt, Nat.div_add_mod]

/-- Byte lane `j` of a word put together from four symbols. -/
theorem softLane_append (a b c d : Soft) :
    softLane (((a ++ b) ++ c) ++ d) 0 = a ∧ softLane (((a ++ b) ++ c) ++ d) 1 = b ∧
      softLane (((a ++ b) ++ c) ++ d) 2 = c ∧ softLane (((a ++ b) ++ c) ++ d) 3 = d := by
  refine ⟨?_, ?_, ?_, ?_⟩ <;>
  · refine BitVec.eq_of_getLsbD_eq fun i hi => ?_
    simp only [softLane, BitVec.getLsbD_extractLsb', BitVec.getLsbD_append, hi, decide_true, Bool.true_and]
    repeat' split
    all_goals first | omega | (congr 1; omega)

/-- Reading a soft vector that was packed gives the vector back (R115). -/
theorem unpackSoft_packSoft {n : Nat} (v : Vector Soft n) : unpackSoft n (packSoft v) = v := by
  refine Vector.ext fun i hi => ?_
  have hw : i / 4 < softWords n := by unfold softWords; omega
  simp only [unpackSoft, getElem_vecOf, packSoft]
  rw [List.getD_eq_getElem?_getD, List.getElem?_map, List.getElem?_range hw]
  simp only [Option.map_some, Option.getD_some]
  obtain ⟨h0, h1, h2, h3⟩ := softLane_append (v.getD (4 * (i / 4)) 0) (v.getD (4 * (i / 4) + 1) 0)
    (v.getD (4 * (i / 4) + 2) 0) (v.getD (4 * (i / 4) + 3) 0)
  have hm : i % 4 < 4 := Nat.mod_lt _ (by decide)
  have hd := Nat.div_add_mod i 4
  have key : ∀ j, i % 4 = j → v.getD (4 * (i / 4) + j) 0 = v[i] := by
    intro j hj
    have : 4 * (i / 4) + j = i := by omega
    simp [this, Vector.getD, hi]
  match hj : i % 4, hm with
  | 0, _ => rw [h0]; exact key 0 hj
  | 1, _ => rw [h1]; exact key 1 hj
  | 2, _ => rw [h2]; exact key 2 hj
  | 3, _ => rw [h3]; exact key 3 hj

end Sys2Proof.Machine
end

