-- ==== Sys2Proof/Laws/State.lean ====
section
/-! SUPPORT. The parameters of this hardware; for every update of the state, what each field holds after it; and reading one
context after writing one. -/

namespace Sys2Proof.Machine

open Config (Params)

/-! ## The parameters of this hardware (R6) -/

@[simp] theorem hardware_numCtx : hardware.numCtx = 64 := rfl
@[simp] theorem hardware_maxM : hardware.maxM = 255 := rfl
@[simp] theorem hardware_rachQDepth : hardware.rachQDepth = 16 := rfl
@[simp] theorem hardware_facchQDepth : hardware.facchQDepth = 8 := rfl
@[simp] theorem hardware_speechQDepth : hardware.speechQDepth = 16 := rfl
@[simp] theorem hardware_tbWidth : hardware.tbWidth = 32 := rfl
@[simp] theorem hardware_hyperframe : hardware.hyperframe = 2715648 := rfl
@[simp] theorem hardware_tsc : hardware.tsc = Config.tsc := rfl
@[simp] theorem hardware_schTrain : hardware.schTrain = Config.schTrain := rfl
@[simp] theorem hardware_dummyBurst : hardware.dummyBurst = Config.dummyBurst := rfl
@[simp] theorem hardware_tchOrder : hardware.tchOrder = Config.tchOrder := rfl
@[simp] theorem hardware_tchFiller : hardware.tchFiller = Config.tchFiller := rfl
@[simp] theorem hardware_vd : hardware.vd = viterbi := rfl
@[simp] theorem hardware_facchDetect : hardware.facchDetect = facchMajority := rfl
@[simp] theorem hardware_gFire : hardware.gFire = 0x0004820009#40 := rfl
@[simp] theorem hardware_gSch : hardware.gSch = 0x175#10 := rfl
@[simp] theorem hardware_gRach : hardware.gRach = 0x2F#6 := rfl
@[simp] theorem hardware_gTch : hardware.gTch = 0x3#3 := rfl
@[simp] theorem hardware_mFer : hardware.mFer = 208 := rfl
@[simp] theorem hardware_t3101Ms : hardware.t3101Ms = 1000#32 := rfl
@[simp] theorem hardware_t3109Ms : hardware.t3109Ms = 19000#32 := rfl
@[simp] theorem hardware_t3111Ms : hardware.t3111Ms = 2000#32 := rfl

/-- On this hardware the burst counter wraps mod `2^32` (R44). -/
@[simp] theorem countBurst_hardware (n : Word) : countBurst hardware n = n + 1 := by
  refine BitVec.eq_of_toNat_eq ?_
  simp [countBurst]

/-! ## `answer` -/

@[simp] theorem State.answer_csr (s : State) (opc result : BitVec 8) (ws : List Word) :
    (s.answer opc result ws).csr = s.csr := rfl
@[simp] theorem State.answer_ctx (s : State) (opc result : BitVec 8) (ws : List Word) :
    (s.answer opc result ws).ctx = s.ctx := rfl
@[simp] theorem State.answer_nowTime (s : State) (opc result : BitVec 8) (ws : List Word) :
    (s.answer opc result ws).nowTime = s.nowTime := rfl
@[simp] theorem State.answer_nowMs (s : State) (opc result : BitVec 8) (ws : List Word) :
    (s.answer opc result ws).nowMs = s.nowMs := rfl
@[simp] theorem State.answer_tx (s : State) (opc result : BitVec 8) (ws : List Word) :
    (s.answer opc result ws).tx = s.tx := rfl
@[simp] theorem State.answer_up (s : State) (opc result : BitVec 8) (ws : List Word) :
    (s.answer opc result ws).up = s.up := rfl
@[simp] theorem State.answer_cmd (s : State) (opc result : BitVec 8) (ws : List Word) :
    (s.answer opc result ws).cmd = s.cmd := rfl
@[simp] theorem State.answer_answers (s : State) (opc result : BitVec 8) (ws : List Word) :
    (s.answer opc result ws).answers = s.answers ++ [statusWord opc result ws.length :: ws] := rfl
@[simp] theorem State.answer_held (s : State) (opc result : BitVec 8) (ws : List Word) :
    (s.answer opc result ws).held = none := rfl
@[simp] theorem State.answer_sched (s : State) (opc result : BitVec 8) (ws : List Word) :
    (s.answer opc result ws).sched = s.sched := rfl

/-! ## `complete` -/

@[simp] theorem State.complete_csr (s : State) (o : Opcode) (ws : List Word) :
    (s.complete o ws).csr = s.csr := rfl
@[simp] theorem State.complete_ctx (s : State) (o : Opcode) (ws : List Word) :
    (s.complete o ws).ctx = s.ctx := rfl
@[simp] theorem State.complete_nowTime (s : State) (o : Opcode) (ws : List Word) :
    (s.complete o ws).nowTime = s.nowTime := rfl
@[simp] theorem State.complete_nowMs (s : State) (o : Opcode) (ws : List Word) :
    (s.complete o ws).nowMs = s.nowMs := rfl
@[simp] theorem State.complete_tx (s : State) (o : Opcode) (ws : List Word) :
    (s.complete o ws).tx = s.tx := rfl
@[simp] theorem State.complete_up (s : State) (o : Opcode) (ws : List Word) :
    (s.complete o ws).up = s.up := rfl
@[simp] theorem State.complete_cmd (s : State) (o : Opcode) (ws : List Word) :
    (s.complete o ws).cmd = s.cmd := rfl
@[simp] theorem State.complete_answers (s : State) (o : Opcode) (ws : List Word) :
    (s.complete o ws).answers = s.answers ++ [statusWord o.code 0x00#8 ws.length :: ws] := rfl
@[simp] theorem State.complete_held (s : State) (o : Opcode) (ws : List Word) :
    (s.complete o ws).held = none := rfl
@[simp] theorem State.complete_sched (s : State) (o : Opcode) (ws : List Word) :
    (s.complete o ws).sched = s.sched := rfl

/-! ## `takeFault` -/

@[simp] theorem State.takeFault_csr (s : State) (opc ch : BitVec 8) (f : FaultCode) :
    (s.takeFault opc ch f).csr = { s.csr with fault := faultWord opc ch f } := rfl
@[simp] theorem State.takeFault_ctx (s : State) (opc ch : BitVec 8) (f : FaultCode) :
    (s.takeFault opc ch f).ctx = s.ctx := rfl
@[simp] theorem State.takeFault_nowTime (s : State) (opc ch : BitVec 8) (f : FaultCode) :
    (s.takeFault opc ch f).nowTime = s.nowTime := rfl
@[simp] theorem State.takeFault_nowMs (s : State) (opc ch : BitVec 8) (f : FaultCode) :
    (s.takeFault opc ch f).nowMs = s.nowMs := rfl
@[simp] theorem State.takeFault_tx (s : State) (opc ch : BitVec 8) (f : FaultCode) :
    (s.takeFault opc ch f).tx = s.tx := rfl
@[simp] theorem State.takeFault_up (s : State) (opc ch : BitVec 8) (f : FaultCode) :
    (s.takeFault opc ch f).up = s.up := rfl
@[simp] theorem State.takeFault_cmd (s : State) (opc ch : BitVec 8) (f : FaultCode) :
    (s.takeFault opc ch f).cmd = s.cmd := rfl
@[simp] theorem State.takeFault_answers (s : State) (opc ch : BitVec 8) (f : FaultCode) :
    (s.takeFault opc ch f).answers = s.answers ++ [[statusWord opc f.code 0]] := rfl
@[simp] theorem State.takeFault_held (s : State) (opc ch : BitVec 8) (f : FaultCode) :
    (s.takeFault opc ch f).held = none := rfl
@[simp] theorem State.takeFault_sched (s : State) (opc ch : BitVec 8) (f : FaultCode) :
    (s.takeFault opc ch f).sched = s.sched := rfl

/-! ## `blocked` -/

@[simp] theorem State.blocked_csr (s : State) (opc : BitVec 8) :
    (s.blocked opc).csr = s.csr := rfl
@[simp] theorem State.blocked_ctx (s : State) (opc : BitVec 8) :
    (s.blocked opc).ctx = s.ctx := rfl
@[simp] theorem State.blocked_nowTime (s : State) (opc : BitVec 8) :
    (s.blocked opc).nowTime = s.nowTime := rfl
@[simp] theorem State.blocked_nowMs (s : State) (opc : BitVec 8) :
    (s.blocked opc).nowMs = s.nowMs := rfl
@[simp] theorem State.blocked_tx (s : State) (opc : BitVec 8) :
    (s.blocked opc).tx = s.tx := rfl
@[simp] theorem State.blocked_up (s : State) (opc : BitVec 8) :
    (s.blocked opc).up = s.up := rfl
@[simp] theorem State.blocked_cmd (s : State) (opc : BitVec 8) :
    (s.blocked opc).cmd = s.cmd := rfl
@[simp] theorem State.blocked_answers (s : State) (opc : BitVec 8) :
    (s.blocked opc).answers = s.answers ++ [[statusWord opc 0xFF#8 0]] := rfl
@[simp] theorem State.blocked_held (s : State) (opc : BitVec 8) :
    (s.blocked opc).held = none := rfl
@[simp] theorem State.blocked_sched (s : State) (opc : BitVec 8) :
    (s.blocked opc).sched = s.sched := rfl

/-! ## `resetEffect` -/

@[simp] theorem State.resetEffect_csr (P : Params) (s : State) :
    (s.resetEffect P).csr = .reset P := rfl
@[simp] theorem State.resetEffect_ctx (P : Params) (s : State) :
    (s.resetEffect P).ctx = Ctx.allReset P := rfl
@[simp] theorem State.resetEffect_nowTime (P : Params) (s : State) :
    (s.resetEffect P).nowTime = s.nowTime := rfl
@[simp] theorem State.resetEffect_nowMs (P : Params) (s : State) :
    (s.resetEffect P).nowMs = s.nowMs := rfl
@[simp] theorem State.resetEffect_tx (P : Params) (s : State) :
    (s.resetEffect P).tx = s.tx := rfl
@[simp] theorem State.resetEffect_up (P : Params) (s : State) :
    (s.resetEffect P).up = s.up := rfl
@[simp] theorem State.resetEffect_cmd (P : Params) (s : State) :
    (s.resetEffect P).cmd = s.cmd := rfl
@[simp] theorem State.resetEffect_answers (P : Params) (s : State) :
    (s.resetEffect P).answers = s.answers := rfl
@[simp] theorem State.resetEffect_held (P : Params) (s : State) :
    (s.resetEffect P).held = none := rfl
@[simp] theorem State.resetEffect_sched (P : Params) (s : State) :
    (s.resetEffect P).sched = s.sched := rfl

/-! ## `rst` -/

@[simp] theorem State.rst_csr (P : Params) (s : State) :
    (s.rst P).csr = .reset P := rfl
@[simp] theorem State.rst_ctx (P : Params) (s : State) :
    (s.rst P).ctx = Ctx.allReset P := rfl
@[simp] theorem State.rst_nowTime (P : Params) (s : State) :
    (s.rst P).nowTime = s.nowTime := rfl
@[simp] theorem State.rst_nowMs (P : Params) (s : State) :
    (s.rst P).nowMs = s.nowMs := rfl
@[simp] theorem State.rst_tx (P : Params) (s : State) :
    (s.rst P).tx = s.tx := rfl
@[simp] theorem State.rst_up (P : Params) (s : State) :
    (s.rst P).up = s.up := rfl
@[simp] theorem State.rst_cmd (P : Params) (s : State) :
    (s.rst P).cmd = wholeCommands s.cmd := rfl
@[simp] theorem State.rst_answers (P : Params) (s : State) :
    (s.rst P).answers = s.answers := rfl
@[simp] theorem State.rst_held (P : Params) (s : State) :
    (s.rst P).held = none := rfl
@[simp] theorem State.rst_sched (P : Params) (s : State) :
    (s.rst P).sched = s.sched := rfl

/-! ## `emitTx` -/

@[simp] theorem State.emitTx_csr (s : State) (r : List Word) :
    (s.emitTx r).csr = s.csr := rfl
@[simp] theorem State.emitTx_ctx (s : State) (r : List Word) :
    (s.emitTx r).ctx = s.ctx := rfl
@[simp] theorem State.emitTx_nowTime (s : State) (r : List Word) :
    (s.emitTx r).nowTime = s.nowTime := rfl
@[simp] theorem State.emitTx_nowMs (s : State) (r : List Word) :
    (s.emitTx r).nowMs = s.nowMs := rfl
@[simp] theorem State.emitTx_tx (s : State) (r : List Word) :
    (s.emitTx r).tx = s.tx ++ [r] := rfl
@[simp] theorem State.emitTx_up (s : State) (r : List Word) :
    (s.emitTx r).up = s.up := rfl
@[simp] theorem State.emitTx_cmd (s : State) (r : List Word) :
    (s.emitTx r).cmd = s.cmd := rfl
@[simp] theorem State.emitTx_answers (s : State) (r : List Word) :
    (s.emitTx r).answers = s.answers := rfl
@[simp] theorem State.emitTx_held (s : State) (r : List Word) :
    (s.emitTx r).held = s.held := rfl
@[simp] theorem State.emitTx_sched (s : State) (r : List Word) :
    (s.emitTx r).sched = s.sched := rfl

/-! ## `emitUp` -/

@[simp] theorem State.emitUp_csr (s : State) (r : List Word) :
    (s.emitUp r).csr = s.csr := rfl
@[simp] theorem State.emitUp_ctx (s : State) (r : List Word) :
    (s.emitUp r).ctx = s.ctx := rfl
@[simp] theorem State.emitUp_nowTime (s : State) (r : List Word) :
    (s.emitUp r).nowTime = s.nowTime := rfl
@[simp] theorem State.emitUp_nowMs (s : State) (r : List Word) :
    (s.emitUp r).nowMs = s.nowMs := rfl
@[simp] theorem State.emitUp_tx (s : State) (r : List Word) :
    (s.emitUp r).tx = s.tx := rfl
@[simp] theorem State.emitUp_up (s : State) (r : List Word) :
    (s.emitUp r).up = s.up ++ [r] := rfl
@[simp] theorem State.emitUp_cmd (s : State) (r : List Word) :
    (s.emitUp r).cmd = s.cmd := rfl
@[simp] theorem State.emitUp_answers (s : State) (r : List Word) :
    (s.emitUp r).answers = s.answers := rfl
@[simp] theorem State.emitUp_held (s : State) (r : List Word) :
    (s.emitUp r).held = s.held := rfl
@[simp] theorem State.emitUp_sched (s : State) (r : List Word) :
    (s.emitUp r).sched = s.sched := rfl

/-! ## `setCtx` -/

@[simp] theorem State.setCtx_csr (s : State) (ch : BitVec 8) (x : Ctx) :
    (s.setCtx ch x).csr = s.csr := rfl
@[simp] theorem State.setCtx_ctx (s : State) (ch : BitVec 8) (x : Ctx) :
    (s.setCtx ch x).ctx = s.ctx.set ch.toNat x := rfl
@[simp] theorem State.setCtx_nowTime (s : State) (ch : BitVec 8) (x : Ctx) :
    (s.setCtx ch x).nowTime = s.nowTime := rfl
@[simp] theorem State.setCtx_nowMs (s : State) (ch : BitVec 8) (x : Ctx) :
    (s.setCtx ch x).nowMs = s.nowMs := rfl
@[simp] theorem State.setCtx_tx (s : State) (ch : BitVec 8) (x : Ctx) :
    (s.setCtx ch x).tx = s.tx := rfl
@[simp] theorem State.setCtx_up (s : State) (ch : BitVec 8) (x : Ctx) :
    (s.setCtx ch x).up = s.up := rfl
@[simp] theorem State.setCtx_cmd (s : State) (ch : BitVec 8) (x : Ctx) :
    (s.setCtx ch x).cmd = s.cmd := rfl
@[simp] theorem State.setCtx_answers (s : State) (ch : BitVec 8) (x : Ctx) :
    (s.setCtx ch x).answers = s.answers := rfl
@[simp] theorem State.setCtx_held (s : State) (ch : BitVec 8) (x : Ctx) :
    (s.setCtx ch x).held = s.held := rfl
@[simp] theorem State.setCtx_sched (s : State) (ch : BitVec 8) (x : Ctx) :
    (s.setCtx ch x).sched = s.sched := rfl

/-! ## `updCtx` -/

@[simp] theorem State.updCtx_csr (s : State) (ch : BitVec 8) (f : Ctx → Ctx) :
    (s.updCtx ch f).csr = s.csr := rfl
@[simp] theorem State.updCtx_ctx (s : State) (ch : BitVec 8) (f : Ctx → Ctx) :
    (s.updCtx ch f).ctx = s.ctx.set ch.toNat (f (s.getCtx ch)) := rfl
@[simp] theorem State.updCtx_nowTime (s : State) (ch : BitVec 8) (f : Ctx → Ctx) :
    (s.updCtx ch f).nowTime = s.nowTime := rfl
@[simp] theorem State.updCtx_nowMs (s : State) (ch : BitVec 8) (f : Ctx → Ctx) :
    (s.updCtx ch f).nowMs = s.nowMs := rfl
@[simp] theorem State.updCtx_tx (s : State) (ch : BitVec 8) (f : Ctx → Ctx) :
    (s.updCtx ch f).tx = s.tx := rfl
@[simp] theorem State.updCtx_up (s : State) (ch : BitVec 8) (f : Ctx → Ctx) :
    (s.updCtx ch f).up = s.up := rfl
@[simp] theorem State.updCtx_cmd (s : State) (ch : BitVec 8) (f : Ctx → Ctx) :
    (s.updCtx ch f).cmd = s.cmd := rfl
@[simp] theorem State.updCtx_answers (s : State) (ch : BitVec 8) (f : Ctx → Ctx) :
    (s.updCtx ch f).answers = s.answers := rfl
@[simp] theorem State.updCtx_held (s : State) (ch : BitVec 8) (f : Ctx → Ctx) :
    (s.updCtx ch f).held = s.held := rfl
@[simp] theorem State.updCtx_sched (s : State) (ch : BitVec 8) (f : Ctx → Ctx) :
    (s.updCtx ch f).sched = s.sched := rfl

/-! ## `updEnc` -/

@[simp] theorem State.updEnc_csr (s : State) (ch : BitVec 8) (f : Encoder → Encoder) :
    (s.updEnc ch f).csr = s.csr := rfl
@[simp] theorem State.updEnc_ctx (s : State) (ch : BitVec 8) (f : Encoder → Encoder) :
    (s.updEnc ch f).ctx = s.ctx.set ch.toNat { s.getCtx ch with enc := f (s.getCtx ch).enc } := rfl
@[simp] theorem State.updEnc_nowTime (s : State) (ch : BitVec 8) (f : Encoder → Encoder) :
    (s.updEnc ch f).nowTime = s.nowTime := rfl
@[simp] theorem State.updEnc_nowMs (s : State) (ch : BitVec 8) (f : Encoder → Encoder) :
    (s.updEnc ch f).nowMs = s.nowMs := rfl
@[simp] theorem State.updEnc_tx (s : State) (ch : BitVec 8) (f : Encoder → Encoder) :
    (s.updEnc ch f).tx = s.tx := rfl
@[simp] theorem State.updEnc_up (s : State) (ch : BitVec 8) (f : Encoder → Encoder) :
    (s.updEnc ch f).up = s.up := rfl
@[simp] theorem State.updEnc_cmd (s : State) (ch : BitVec 8) (f : Encoder → Encoder) :
    (s.updEnc ch f).cmd = s.cmd := rfl
@[simp] theorem State.updEnc_answers (s : State) (ch : BitVec 8) (f : Encoder → Encoder) :
    (s.updEnc ch f).answers = s.answers := rfl
@[simp] theorem State.updEnc_held (s : State) (ch : BitVec 8) (f : Encoder → Encoder) :
    (s.updEnc ch f).held = s.held := rfl
@[simp] theorem State.updEnc_sched (s : State) (ch : BitVec 8) (f : Encoder → Encoder) :
    (s.updEnc ch f).sched = s.sched := rfl

/-! ## `updDec` -/

@[simp] theorem State.updDec_csr (s : State) (ch : BitVec 8) (f : Decoder → Decoder) :
    (s.updDec ch f).csr = s.csr := rfl
@[simp] theorem State.updDec_ctx (s : State) (ch : BitVec 8) (f : Decoder → Decoder) :
    (s.updDec ch f).ctx = s.ctx.set ch.toNat { s.getCtx ch with dec := f (s.getCtx ch).dec } := rfl
@[simp] theorem State.updDec_nowTime (s : State) (ch : BitVec 8) (f : Decoder → Decoder) :
    (s.updDec ch f).nowTime = s.nowTime := rfl
@[simp] theorem State.updDec_nowMs (s : State) (ch : BitVec 8) (f : Decoder → Decoder) :
    (s.updDec ch f).nowMs = s.nowMs := rfl
@[simp] theorem State.updDec_tx (s : State) (ch : BitVec 8) (f : Decoder → Decoder) :
    (s.updDec ch f).tx = s.tx := rfl
@[simp] theorem State.updDec_up (s : State) (ch : BitVec 8) (f : Decoder → Decoder) :
    (s.updDec ch f).up = s.up := rfl
@[simp] theorem State.updDec_cmd (s : State) (ch : BitVec 8) (f : Decoder → Decoder) :
    (s.updDec ch f).cmd = s.cmd := rfl
@[simp] theorem State.updDec_answers (s : State) (ch : BitVec 8) (f : Decoder → Decoder) :
    (s.updDec ch f).answers = s.answers := rfl
@[simp] theorem State.updDec_held (s : State) (ch : BitVec 8) (f : Decoder → Decoder) :
    (s.updDec ch f).held = s.held := rfl
@[simp] theorem State.updDec_sched (s : State) (ch : BitVec 8) (f : Decoder → Decoder) :
    (s.updDec ch f).sched = s.sched := rfl

/-! ## `rollForward` -/

@[simp] theorem State.rollForward_csr (P : Params) (s : State) (ch : BitVec 8) :
    (s.rollForward P ch).csr = s.csr := rfl
@[simp] theorem State.rollForward_ctx (P : Params) (s : State) (ch : BitVec 8) :
    (s.rollForward P ch).ctx = s.ctx.set ch.toNat ((s.getCtx ch).roll P) := rfl
@[simp] theorem State.rollForward_nowTime (P : Params) (s : State) (ch : BitVec 8) :
    (s.rollForward P ch).nowTime = s.nowTime := rfl
@[simp] theorem State.rollForward_nowMs (P : Params) (s : State) (ch : BitVec 8) :
    (s.rollForward P ch).nowMs = s.nowMs := rfl
@[simp] theorem State.rollForward_tx (P : Params) (s : State) (ch : BitVec 8) :
    (s.rollForward P ch).tx = s.tx := rfl
@[simp] theorem State.rollForward_up (P : Params) (s : State) (ch : BitVec 8) :
    (s.rollForward P ch).up = s.up ++ [upRecord 0x15#8 ch [timeWord ((s.getCtx ch).roll P).enc.nextWT]] := rfl
@[simp] theorem State.rollForward_cmd (P : Params) (s : State) (ch : BitVec 8) :
    (s.rollForward P ch).cmd = s.cmd := rfl
@[simp] theorem State.rollForward_answers (P : Params) (s : State) (ch : BitVec 8) :
    (s.rollForward P ch).answers = s.answers := rfl
@[simp] theorem State.rollForward_held (P : Params) (s : State) (ch : BitVec 8) :
    (s.rollForward P ch).held = s.held := rfl
@[simp] theorem State.rollForward_sched (P : Params) (s : State) (ch : BitVec 8) :
    (s.rollForward P ch).sched = s.sched := rfl

/-! ## `sendBurst` -/

@[simp] theorem State.sendBurst_csr (P : Params) (s : State) (ch : BitVec 8) (b : BitVec 148) :
    (s.sendBurst P ch b).csr = s.csr := rfl
@[simp] theorem State.sendBurst_ctx (P : Params) (s : State) (ch : BitVec 8) (b : BitVec 148) :
    (s.sendBurst P ch b).ctx = s.ctx.set ch.toNat ((s.getCtx ch).roll P) := rfl
@[simp] theorem State.sendBurst_nowTime (P : Params) (s : State) (ch : BitVec 8) (b : BitVec 148) :
    (s.sendBurst P ch b).nowTime = s.nowTime := rfl
@[simp] theorem State.sendBurst_nowMs (P : Params) (s : State) (ch : BitVec 8) (b : BitVec 148) :
    (s.sendBurst P ch b).nowMs = s.nowMs := rfl
@[simp] theorem State.sendBurst_tx (P : Params) (s : State) (ch : BitVec 8) (b : BitVec 148) :
    (s.sendBurst P ch b).tx = s.tx ++ [txRecord ch (s.getCtx ch).cfg.arfcn (s.getCtx ch).enc.nextWT b] := rfl
@[simp] theorem State.sendBurst_up (P : Params) (s : State) (ch : BitVec 8) (b : BitVec 148) :
    (s.sendBurst P ch b).up = s.up ++ [upRecord 0x15#8 ch [timeWord ((s.getCtx ch).roll P).enc.nextWT]] := rfl
@[simp] theorem State.sendBurst_cmd (P : Params) (s : State) (ch : BitVec 8) (b : BitVec 148) :
    (s.sendBurst P ch b).cmd = s.cmd := rfl
@[simp] theorem State.sendBurst_answers (P : Params) (s : State) (ch : BitVec 8) (b : BitVec 148) :
    (s.sendBurst P ch b).answers = s.answers := rfl
@[simp] theorem State.sendBurst_held (P : Params) (s : State) (ch : BitVec 8) (b : BitVec 148) :
    (s.sendBurst P ch b).held = s.held := rfl
@[simp] theorem State.sendBurst_sched (P : Params) (s : State) (ch : BitVec 8) (b : BitVec 148) :
    (s.sendBurst P ch b).sched = s.sched := rfl

/-! ## `answered` -/

@[simp] theorem State.answered_csr (s : State) (w : Word) (ws : List Word) :
    (s.answered w ws).csr = s.csr := rfl
@[simp] theorem State.answered_ctx (s : State) (w : Word) (ws : List Word) :
    (s.answered w ws).ctx = s.ctx := rfl
@[simp] theorem State.answered_nowTime (s : State) (w : Word) (ws : List Word) :
    (s.answered w ws).nowTime = s.nowTime := rfl
@[simp] theorem State.answered_nowMs (s : State) (w : Word) (ws : List Word) :
    (s.answered w ws).nowMs = s.nowMs := rfl
@[simp] theorem State.answered_tx (s : State) (w : Word) (ws : List Word) :
    (s.answered w ws).tx = s.tx := rfl
@[simp] theorem State.answered_up (s : State) (w : Word) (ws : List Word) :
    (s.answered w ws).up = s.up := rfl
@[simp] theorem State.answered_cmd (s : State) (w : Word) (ws : List Word) :
    (s.answered w ws).cmd = s.cmd := rfl
@[simp] theorem State.answered_answers (s : State) (w : Word) (ws : List Word) :
    (s.answered w ws).answers = s.answers ++ [w :: ws] := rfl
@[simp] theorem State.answered_held (s : State) (w : Word) (ws : List Word) :
    (s.answered w ws).held = none := rfl
@[simp] theorem State.answered_sched (s : State) (w : Word) (ws : List Word) :
    (s.answered w ws).sched = s.sched := rfl

/-! ## `afterFault` -/

@[simp] theorem State.afterFault_csr (s : State) (opc ch code : BitVec 8) :
    (s.afterFault opc ch code).csr = { s.csr with fault := ((0x80#8 ++ ch) ++ code) ++ opc } := rfl
@[simp] theorem State.afterFault_ctx (s : State) (opc ch code : BitVec 8) :
    (s.afterFault opc ch code).ctx = s.ctx := rfl
@[simp] theorem State.afterFault_nowTime (s : State) (opc ch code : BitVec 8) :
    (s.afterFault opc ch code).nowTime = s.nowTime := rfl
@[simp] theorem State.afterFault_nowMs (s : State) (opc ch code : BitVec 8) :
    (s.afterFault opc ch code).nowMs = s.nowMs := rfl
@[simp] theorem State.afterFault_tx (s : State) (opc ch code : BitVec 8) :
    (s.afterFault opc ch code).tx = s.tx := rfl
@[simp] theorem State.afterFault_up (s : State) (opc ch code : BitVec 8) :
    (s.afterFault opc ch code).up = s.up := rfl
@[simp] theorem State.afterFault_cmd (s : State) (opc ch code : BitVec 8) :
    (s.afterFault opc ch code).cmd = s.cmd := rfl
@[simp] theorem State.afterFault_answers (s : State) (opc ch code : BitVec 8) :
    (s.afterFault opc ch code).answers = s.answers ++ [[(opc ++ code) ++ 0#16]] := rfl
@[simp] theorem State.afterFault_held (s : State) (opc ch code : BitVec 8) :
    (s.afterFault opc ch code).held = none := rfl
@[simp] theorem State.afterFault_sched (s : State) (opc ch code : BitVec 8) :
    (s.afterFault opc ch code).sched = s.sched := rfl

/-! ## `afterBlock` -/

@[simp] theorem State.afterBlock_csr (s : State) (opc : BitVec 8) :
    (s.afterBlock opc).csr = s.csr := rfl
@[simp] theorem State.afterBlock_ctx (s : State) (opc : BitVec 8) :
    (s.afterBlock opc).ctx = s.ctx := rfl
@[simp] theorem State.afterBlock_nowTime (s : State) (opc : BitVec 8) :
    (s.afterBlock opc).nowTime = s.nowTime := rfl
@[simp] theorem State.afterBlock_nowMs (s : State) (opc : BitVec 8) :
    (s.afterBlock opc).nowMs = s.nowMs := rfl
@[simp] theorem State.afterBlock_tx (s : State) (opc : BitVec 8) :
    (s.afterBlock opc).tx = s.tx := rfl
@[simp] theorem State.afterBlock_up (s : State) (opc : BitVec 8) :
    (s.afterBlock opc).up = s.up := rfl
@[simp] theorem State.afterBlock_cmd (s : State) (opc : BitVec 8) :
    (s.afterBlock opc).cmd = s.cmd := rfl
@[simp] theorem State.afterBlock_answers (s : State) (opc : BitVec 8) :
    (s.afterBlock opc).answers = s.answers ++ [[(opc ++ 0xFF#8) ++ 0#16]] := rfl
@[simp] theorem State.afterBlock_held (s : State) (opc : BitVec 8) :
    (s.afterBlock opc).held = none := rfl
@[simp] theorem State.afterBlock_sched (s : State) (opc : BitVec 8) :
    (s.afterBlock opc).sched = s.sched := rfl

/-! ## `holding` -/

@[simp] theorem State.holding_csr (s : State) (i : Instr) :
    (s.holding i).csr = s.csr := rfl
@[simp] theorem State.holding_ctx (s : State) (i : Instr) :
    (s.holding i).ctx = s.ctx := rfl
@[simp] theorem State.holding_nowTime (s : State) (i : Instr) :
    (s.holding i).nowTime = s.nowTime := rfl
@[simp] theorem State.holding_nowMs (s : State) (i : Instr) :
    (s.holding i).nowMs = s.nowMs := rfl
@[simp] theorem State.holding_tx (s : State) (i : Instr) :
    (s.holding i).tx = s.tx := rfl
@[simp] theorem State.holding_up (s : State) (i : Instr) :
    (s.holding i).up = s.up := rfl
@[simp] theorem State.holding_cmd (s : State) (i : Instr) :
    (s.holding i).cmd = s.cmd := rfl
@[simp] theorem State.holding_answers (s : State) (i : Instr) :
    (s.holding i).answers = s.answers := rfl
@[simp] theorem State.holding_held (s : State) (i : Instr) :
    (s.holding i).held = some ⟨i, s.t0⟩ := rfl
@[simp] theorem State.holding_sched (s : State) (i : Instr) :
    (s.holding i).sched = s.sched := rfl

/-! ## `withCtx` -/

@[simp] theorem State.withCtx_csr (s : State) (ch : BitVec 8) (c : Ctx) :
    (s.withCtx ch c).csr = s.csr := rfl
@[simp] theorem State.withCtx_ctx (s : State) (ch : BitVec 8) (c : Ctx) :
    (s.withCtx ch c).ctx = s.ctx.set ch.toNat c := rfl
@[simp] theorem State.withCtx_nowTime (s : State) (ch : BitVec 8) (c : Ctx) :
    (s.withCtx ch c).nowTime = s.nowTime := rfl
@[simp] theorem State.withCtx_nowMs (s : State) (ch : BitVec 8) (c : Ctx) :
    (s.withCtx ch c).nowMs = s.nowMs := rfl
@[simp] theorem State.withCtx_tx (s : State) (ch : BitVec 8) (c : Ctx) :
    (s.withCtx ch c).tx = s.tx := rfl
@[simp] theorem State.withCtx_up (s : State) (ch : BitVec 8) (c : Ctx) :
    (s.withCtx ch c).up = s.up := rfl
@[simp] theorem State.withCtx_cmd (s : State) (ch : BitVec 8) (c : Ctx) :
    (s.withCtx ch c).cmd = s.cmd := rfl
@[simp] theorem State.withCtx_answers (s : State) (ch : BitVec 8) (c : Ctx) :
    (s.withCtx ch c).answers = s.answers := rfl
@[simp] theorem State.withCtx_held (s : State) (ch : BitVec 8) (c : Ctx) :
    (s.withCtx ch c).held = s.held := rfl
@[simp] theorem State.withCtx_sched (s : State) (ch : BitVec 8) (c : Ctx) :
    (s.withCtx ch c).sched = s.sched := rfl

/-! ## One context after a write -/

/-- A write keeps the number of contexts. -/
@[simp] theorem State.length_setCtx (s : State) (ch : BitVec 8) (x : Ctx) : (s.setCtx ch x).ctx.length = s.ctx.length := by
  simp [State.setCtx]

/-- A running context exists: its index is below the number of contexts. -/
theorem State.lt_length_of_running {s : State} {ch : BitVec 8} (h : (s.getCtx ch).cfg.running = true) :
    ch.toNat < s.ctx.length := by
  refine Nat.lt_of_not_le fun hle => ?_
  rw [State.getCtx, List.getD_eq_default _ _ hle] at h
  cases h

/-- The context just written reads as written. -/
theorem State.getCtx_setCtx_self (s : State) {ch : BitVec 8} (x : Ctx) (h : ch.toNat < s.ctx.length) :
    (s.setCtx ch x).getCtx ch = x := by
  simp [State.getCtx, State.setCtx, h]

/-- Every other context reads as before. -/
theorem State.getCtx_setCtx_of_ne (s : State) {c ch : BitVec 8} (x : Ctx) (h : c ≠ ch) :
    (s.setCtx ch x).getCtx c = s.getCtx c := by
  have hne : ch.toNat ≠ c.toNat := fun e => h (BitVec.eq_of_toNat_eq e.symm)
  simp [State.getCtx, State.setCtx, hne]

/-- A write back of what is there changes nothing. -/
theorem State.setCtx_getCtx (s : State) (ch : BitVec 8) : s.setCtx ch (s.getCtx ch) = s := by
  have hv : s.ctx.set ch.toNat (s.getCtx ch) = s.ctx := by
    refine List.ext_getElem (by simp) fun i _ h2 => ?_
    by_cases h : ch.toNat = i
    · subst h; simp [State.getCtx, h2]
    · simp [h]
  unfold State.setCtx
  rw [hv]

@[simp] theorem State.getCtx_answer (s : State) (opc result : BitVec 8) (ws : List Word) (c : BitVec 8) :
    (s.answer opc result ws).getCtx c = s.getCtx c := rfl
@[simp] theorem State.getCtx_complete (s : State) (o : Opcode) (ws : List Word) (c : BitVec 8) :
    (s.complete o ws).getCtx c = s.getCtx c := rfl
@[simp] theorem State.getCtx_takeFault (s : State) (opc ch : BitVec 8) (f : FaultCode) (c : BitVec 8) :
    (s.takeFault opc ch f).getCtx c = s.getCtx c := rfl
@[simp] theorem State.getCtx_blocked (s : State) (opc : BitVec 8) (c : BitVec 8) :
    (s.blocked opc).getCtx c = s.getCtx c := rfl
@[simp] theorem State.getCtx_emitTx (s : State) (r : List Word) (c : BitVec 8) :
    (s.emitTx r).getCtx c = s.getCtx c := rfl
@[simp] theorem State.getCtx_emitUp (s : State) (r : List Word) (c : BitVec 8) :
    (s.emitUp r).getCtx c = s.getCtx c := rfl
@[simp] theorem State.getCtx_answered (s : State) (w : Word) (ws : List Word) (c : BitVec 8) :
    (s.answered w ws).getCtx c = s.getCtx c := rfl
@[simp] theorem State.getCtx_afterFault (s : State) (opc ch code : BitVec 8) (c : BitVec 8) :
    (s.afterFault opc ch code).getCtx c = s.getCtx c := rfl
@[simp] theorem State.getCtx_afterBlock (s : State) (opc : BitVec 8) (c : BitVec 8) :
    (s.afterBlock opc).getCtx c = s.getCtx c := rfl
@[simp] theorem State.getCtx_holding (s : State) (i : Instr) (c : BitVec 8) :
    (s.holding i).getCtx c = s.getCtx c := rfl

@[simp] theorem State.withCtx_eq_setCtx (s : State) (ch : BitVec 8) (c : Ctx) : s.withCtx ch c = s.setCtx ch c := rfl

end Sys2Proof.Machine
end

