-- ==== Sys2Proof/Laws/Ops.lean ====
section
/-! SUPPORT. What each shared operation can do, said once (cited instead of unfolding it): the checks of a command, the wait,
answers and faults, the parts of a context that scheduling, opening and closing touch, reading payload words. -/

namespace Sys2Proof.Machine

open Config (Params)

/-! ## Checks -/

@[simp] theorem firstFault_nil : firstFault [] = none := rfl

@[simp] theorem firstFault_pass (f : FaultCode) (l : List (Bool × FaultCode)) :
    firstFault ((false, f) :: l) = firstFault l := rfl

@[simp] theorem firstFault_fail (f : FaultCode) (l : List (Bool × FaultCode)) :
    firstFault ((true, f) :: l) = some f := rfl

theorem firstFault_cons (p : Bool × FaultCode) (l : List (Bool × FaultCode)) :
    firstFault (p :: l) = if p.1 then some p.2 else firstFault l := rfl

/-- No check fails exactly when every check passes. -/
theorem firstFault_eq_none {l : List (Bool × FaultCode)} : firstFault l = none ↔ ∀ p ∈ l, p.1 = false := by
  induction l with
  | nil => simp
  | cons p l ih => obtain ⟨b, f⟩ := p; cases b <;> simp [firstFault, ih]

/-! ## Answers -/

theorem State.complete_eq_answered (s : State) (o : Opcode) (ws : List Word) :
    s.complete o ws = s.answered (okStatus o.code ws.length) ws := rfl

theorem State.takeFault_eq_afterFault (s : State) (opc ch : BitVec 8) (f : FaultCode) :
    s.takeFault opc ch f = s.afterFault opc ch f.code := rfl

theorem State.blocked_eq_afterBlock (s : State) (opc : BitVec 8) : s.blocked opc = s.afterBlock opc := rfl

/-! ## Running a command -/

/-- In the fault state a command is blocked (R385). -/
theorem State.command_of_faulted {s : State} (h : s.faulted = true) (o : Opcode) (ch : BitVec 8)
    (checks : List (Bool × FaultCode)) (e : Result) : s.command o ch checks e = .next (s.blocked o.code) := by
  simp [State.command, h]

/-- A command whose first failing check says `f` takes that fault (R383). -/
theorem State.command_of_fault {s : State} (h : s.faulted = false) {checks : List (Bool × FaultCode)} {f : FaultCode}
    (hf : firstFault checks = some f) (o : Opcode) (ch : BitVec 8) (e : Result) :
    s.command o ch checks e = .next (s.takeFault o.code ch f) := by
  simp [State.command, h, hf]

/-- A command whose checks all pass has its effect (R383). -/
theorem State.command_of_pass {s : State} (h : s.faulted = false) {checks : List (Bool × FaultCode)}
    (hf : firstFault checks = none) (o : Opcode) (ch : BitVec 8) (e : Result) : s.command o ch checks e = e := by
  simp [State.command, h, hf]

/-- Everything a command can do. -/
theorem State.command_cases {s t : State} {o : Opcode} {ch : BitVec 8} {checks : List (Bool × FaultCode)} {e : Result}
    (h : s.command o ch checks e = .next t) :
    (s.faulted = true ∧ t = s.blocked o.code) ∨
    (s.faulted = false ∧ ∃ f, firstFault checks = some f ∧ t = s.takeFault o.code ch f) ∨
    (s.faulted = false ∧ firstFault checks = none ∧ e = .next t) := by
  unfold State.command at h
  split at h
  · rename_i hf; cases h; exact .inl ⟨hf, rfl⟩
  · rename_i hf
    have hf : s.faulted = false := by simpa using hf
    split at h
    · rename_i f hff; cases h; exact .inr (.inl ⟨hf, f, hff, rfl⟩)
    · rename_i hff; exact .inr (.inr ⟨hf, hff, h⟩)

/-! ## Waiting -/

/-- Everything a wait can do: go on, or hold the command and change nothing else (R88, R392). -/
theorem State.waitToSend_cases {P : Params} {s t done : State} {i : Instr} {w : Time} (h : s.waitToSend P i w done = .next t) :
    (waitOver P s.nowTime w = true ∧ t = done) ∨ (waitOver P s.nowTime w = false ∧ t = s.holding i) := by
  unfold State.waitToSend at h
  split at h
  · rename_i hw; cases h; exact .inl ⟨hw, rfl⟩
  · rename_i hw; cases h; exact .inr ⟨by simpa using hw, rfl⟩

/-! ## Times -/

/-- Every frame number that the arithmetic of R240 gives is in `[0, H)`. -/
theorem fnOfInt_lt {P : Params} (h : 1 ≤ P.hyperframe) (i : Int) : fnOfInt P i < P.hyperframe := by
  have hp : (0 : Int) < P.hyperframe := by omega
  have h0 := Int.emod_nonneg i hp.ne'
  have h1 := Int.emod_lt_of_pos i hp
  rw [fnOfInt]
  omega

/-- What a roll to an offset of the period can give (R243): a time of R14 on the same timeslot. -/
theorem rollTo_legal {P : Params} (h : 1 ≤ P.hyperframe) (t : Time) (target p : Nat) :
    (rollTo P t target p).legal P = true ∧ (rollTo P t target p).tn = t.tn :=
  ⟨decide_eq_true (fnOfInt_lt h _), rfl⟩

/-- A legal time word (R116) stands for a time of R14. -/
theorem timeOf_legal {P : Params} {w : Word} (h : legalTime P w = true) : (timeOf w).legal P = true := by
  rw [legalTime, Bool.and_eq_true] at h
  exact h.2

/-- R241 with the numbers of this spec's hardware. -/
theorem fnDelta_hardware (a b : Nat) : fnDelta hardware a b = ((a : Int) - b + 1357824) % 2715648 - 1357824 := rfl

/-! ## Schedules: what `reseat`, `resync` and `roll` leave alone -/

theorem Ctx.reseat_none (P : Params) {c : Ctx} (h : c.cfg.txmap = none) (t0 : Time) : c.reseat P t0 = c := by
  simp [Ctx.reseat, h]

theorem Ctx.reseat_some (P : Params) {c : Ctx} {M : Mapping} (h : c.cfg.txmap = some M) (t0 : Time) :
    c.reseat P t0 = { c with enc :=
      { c.enc with
        nextWT := rollTo P ⟨t0.fn, c.cfg.tn⟩ (frameMapping M c.enc.totalBursts.toNat) M.p.toNat
        prevWT := ⟨t0.fn, c.cfg.tn⟩ } } := by
  simp [Ctx.reseat, h]

theorem Ctx.resync_cases (P : Params) (c : Ctx) (t0 : Time) : c.resync P t0 = c.reseat P t0 ∨ c.resync P t0 = c := by
  unfold Ctx.resync; split
  · exact .inl rfl
  · exact .inr rfl

theorem Ctx.roll_none (P : Params) {c : Ctx} (h : c.cfg.txmap = none) : c.roll P = c := by simp [Ctx.roll, h]

theorem Ctx.roll_some (P : Params) {c : Ctx} {M : Mapping} (h : c.cfg.txmap = some M) :
    c.roll P = { c with enc :=
      { c.enc with
        prevWT := c.enc.nextWT
        totalBursts := countBurst P c.enc.totalBursts
        nextWT := rollTo P c.enc.nextWT (frameMapping M (countBurst P c.enc.totalBursts).toNat) M.p.toNat } } := by
  simp [Ctx.roll, h]

/-- `reseat` changes nothing but `nextWT` and `prevWT`. -/
theorem Ctx.reseat_frame (P : Params) (c : Ctx) (t0 : Time) :
    ∃ n p, c.reseat P t0 = { c with enc := { c.enc with nextWT := n, prevWT := p } } := by
  rcases h : c.cfg.txmap with _ | M
  · exact ⟨c.enc.nextWT, c.enc.prevWT, by rw [Ctx.reseat_none P h]⟩
  · exact ⟨_, _, Ctx.reseat_some P h t0⟩

/-- `resync` changes nothing but `nextWT` and `prevWT`. -/
theorem Ctx.resync_frame (P : Params) (c : Ctx) (t0 : Time) :
    ∃ n p, c.resync P t0 = { c with enc := { c.enc with nextWT := n, prevWT := p } } := by
  rcases c.resync_cases P t0 with h | h
  · rw [h]; exact c.reseat_frame P t0
  · exact ⟨c.enc.nextWT, c.enc.prevWT, h⟩

/-- `roll` changes nothing but `nextWT`, `prevWT` and `totalBursts`. -/
theorem Ctx.roll_frame (P : Params) (c : Ctx) :
    ∃ n p b, c.roll P = { c with enc := { c.enc with nextWT := n, prevWT := p, totalBursts := b } } := by
  rcases h : c.cfg.txmap with _ | M
  · exact ⟨c.enc.nextWT, c.enc.prevWT, c.enc.totalBursts, by rw [Ctx.roll_none P h]⟩
  · exact ⟨_, _, _, Ctx.roll_some P h⟩

@[simp] theorem Ctx.reseat_cfg (P : Params) (c : Ctx) (t0 : Time) : (c.reseat P t0).cfg = c.cfg := by
  obtain ⟨n, p, h⟩ := c.reseat_frame P t0; rw [h]

@[simp] theorem Ctx.reseat_dec (P : Params) (c : Ctx) (t0 : Time) : (c.reseat P t0).dec = c.dec := by
  obtain ⟨n, p, h⟩ := c.reseat_frame P t0; rw [h]

@[simp] theorem Ctx.resync_cfg (P : Params) (c : Ctx) (t0 : Time) : (c.resync P t0).cfg = c.cfg := by
  obtain ⟨n, p, h⟩ := c.resync_frame P t0; rw [h]

@[simp] theorem Ctx.resync_dec (P : Params) (c : Ctx) (t0 : Time) : (c.resync P t0).dec = c.dec := by
  obtain ⟨n, p, h⟩ := c.resync_frame P t0; rw [h]

@[simp] theorem Ctx.roll_cfg (P : Params) (c : Ctx) : (c.roll P).cfg = c.cfg := by
  obtain ⟨n, p, b, h⟩ := c.roll_frame P; rw [h]

@[simp] theorem Ctx.roll_dec (P : Params) (c : Ctx) : (c.roll P).dec = c.dec := by
  obtain ⟨n, p, b, h⟩ := c.roll_frame P; rw [h]

/-! ## Sending several bursts -/

@[simp] theorem State.sendBursts_nil (P : Params) (s : State) (ch : BitVec 8) : s.sendBursts P ch [] = s := rfl

@[simp] theorem State.sendBursts_cons (P : Params) (s : State) (ch : BitVec 8) (b : BitVec 148) (bs : List (BitVec 148)) :
    s.sendBursts P ch (b :: bs) = (s.sendBurst P ch b).sendBursts P ch bs := rfl

/-- Sending bursts leaves registers, clocks, the command port and the agents alone. -/
theorem State.sendBursts_frame (P : Params) (s : State) (ch : BitVec 8) (bs : List (BitVec 148)) :
    (s.sendBursts P ch bs).csr = s.csr ∧ (s.sendBursts P ch bs).nowTime = s.nowTime ∧
    (s.sendBursts P ch bs).nowMs = s.nowMs ∧ (s.sendBursts P ch bs).cmd = s.cmd ∧
    (s.sendBursts P ch bs).answers = s.answers ∧ (s.sendBursts P ch bs).held = s.held ∧
    (s.sendBursts P ch bs).sched = s.sched := by
  induction bs generalizing s with
  | nil => simp
  | cons b bs ih => simpa using ih (s.sendBurst P ch b)

/-- What sending a burst does to the contexts: it rolls its own. -/
theorem State.sendBurst_ctx_eq (P : Params) (s : State) (ch : BitVec 8) (b : BitVec 148) :
    (s.sendBurst P ch b).ctx = (s.setCtx ch ((s.getCtx ch).roll P)).ctx := rfl

/-- Sending a burst keeps the number of contexts. -/
@[simp] theorem State.length_sendBurst (P : Params) (s : State) (ch : BitVec 8) (b : BitVec 148) :
    (s.sendBurst P ch b).ctx.length = s.ctx.length := by
  simp

theorem State.getCtx_congr {s t : State} (h : s.ctx = t.ctx) (c : BitVec 8) : s.getCtx c = t.getCtx c := by
  simp [State.getCtx, h]

theorem State.getCtx_sendBurst_self (P : Params) (s : State) {ch : BitVec 8} (b : BitVec 148) (h : ch.toNat < s.ctx.length) :
    (s.sendBurst P ch b).getCtx ch = (s.getCtx ch).roll P :=
  (State.getCtx_congr (s.sendBurst_ctx_eq P ch b) ch).trans (s.getCtx_setCtx_self _ h)

theorem State.getCtx_sendBurst_of_ne (P : Params) (s : State) {c ch : BitVec 8} (b : BitVec 148) (h : c ≠ ch) :
    (s.sendBurst P ch b).getCtx c = s.getCtx c :=
  (State.getCtx_congr (s.sendBurst_ctx_eq P ch b) c).trans (s.getCtx_setCtx_of_ne _ h)

theorem State.getCtx_rollForward_self (P : Params) (s : State) {ch : BitVec 8} (h : ch.toNat < s.ctx.length) :
    (s.rollForward P ch).getCtx ch = (s.getCtx ch).roll P := s.getCtx_setCtx_self _ h

theorem State.getCtx_rollForward_of_ne (P : Params) (s : State) {c ch : BitVec 8} (h : c ≠ ch) :
    (s.rollForward P ch).getCtx c = s.getCtx c := s.getCtx_setCtx_of_ne _ h

theorem State.getCtx_sendBursts_of_ne (P : Params) (s : State) {c ch : BitVec 8} (bs : List (BitVec 148)) (h : c ≠ ch) :
    (s.sendBursts P ch bs).getCtx c = s.getCtx c := by
  induction bs generalizing s with
  | nil => rfl
  | cons b bs ih => rw [State.sendBursts_cons, ih, State.getCtx_sendBurst_of_ne P _ _ h]

/-! ## Idle fill -/

@[simp] theorem State.idleSteps_zero (P : Params) (s : State) (ch : BitVec 8) : s.idleSteps P ch 0 = s := rfl

theorem State.idleSteps_succ (P : Params) (s : State) (ch : BitVec 8) (n : Nat) :
    s.idleSteps P ch (n + 1) = (s.idleSteps P ch n).idleStep P ch := rfl

/-- Idle fill leaves registers, clocks, the command port and the agents alone. -/
theorem State.idleSteps_frame (P : Params) (s : State) (ch : BitVec 8) (n : Nat) :
    (s.idleSteps P ch n).csr = s.csr ∧ (s.idleSteps P ch n).nowTime = s.nowTime ∧ (s.idleSteps P ch n).nowMs = s.nowMs ∧
    (s.idleSteps P ch n).cmd = s.cmd ∧ (s.idleSteps P ch n).answers = s.answers ∧ (s.idleSteps P ch n).held = s.held ∧
    (s.idleSteps P ch n).sched = s.sched := by
  induction n with
  | zero => simp
  | succ n ih =>
    rw [State.idleSteps_succ]
    unfold State.idleStep
    split <;> simpa using ih

/-! ## Timers -/

@[simp] theorem Timer.set_armed (n t : Word) : (Timer.set n t).armed = true := rfl
@[simp] theorem Timer.set_start (n t : Word) : (Timer.set n t).start = n := rfl
@[simp] theorem Timer.set_timeout (n t : Word) : (Timer.set n t).timeout = t := rfl
@[simp] theorem Timer.stop_armed (t : Timer) : t.stop.armed = false := rfl
@[simp] theorem Timer.stop_start (t : Timer) : t.stop.start = t.start := rfl
@[simp] theorem Timer.stop_timeout (t : Timer) : t.stop.timeout = t.timeout := rfl

/-! ## Opening and closing: what stays -/

@[simp] theorem Ctx.closeEnc_cfg (c : Ctx) : c.closeEnc.cfg = c.cfg := by unfold Ctx.closeEnc; split <;> rfl

@[simp] theorem Ctx.closeEnc_dec (c : Ctx) : c.closeEnc.dec = c.dec := by unfold Ctx.closeEnc; split <;> rfl

@[simp] theorem Ctx.closeDec_cfg (c : Ctx) (n : Word) (r : Csr) : (c.closeDec n r).cfg = c.cfg := by
  unfold Ctx.closeDec; split <;> rfl

@[simp] theorem Ctx.closeDec_enc (c : Ctx) (n : Word) (r : Csr) : (c.closeDec n r).enc = c.enc := by
  unfold Ctx.closeDec; split <;> rfl

@[simp] theorem Ctx.openEnc_cfg (P : Params) (c : Ctx) (t0 : Time) : (c.openEnc P t0).cfg = c.cfg := by
  unfold Ctx.openEnc
  simp only
  split <;> simp

@[simp] theorem Ctx.openEnc_dec (P : Params) (c : Ctx) (t0 : Time) : (c.openEnc P t0).dec = c.dec := by
  unfold Ctx.openEnc
  simp only
  split <;> simp

@[simp] theorem Ctx.openDec_cfg (c : Ctx) (ia : Bool) (n : Word) (r : Csr) : (c.openDec ia n r).cfg = c.cfg := rfl

@[simp] theorem Ctx.openDec_enc (c : Ctx) (ia : Bool) (n : Word) (r : Csr) : (c.openDec ia n r).enc = c.enc := rfl

@[simp] theorem Ctx.open_cfg (P : Params) (c : Ctx) (ia : Bool) (t0 : Time) (n : Word) (r : Csr) :
    (c.open P ia t0 n r).cfg = c.cfg := by
  unfold Ctx.open
  simp only
  split <;> split <;> simp

/-! ## The block and its parameters -/

/-- What a command does on this spec's hardware is what it does on a block with the parameters of this hardware. -/
theorem execFor_hardware (h : LawfulParams hardware) : execFor ⟨hardware, h⟩ = exec := by
  funext i s
  cases i <;> rfl

theorem stepFor_hardware (h : LawfulParams hardware) : stepFor ⟨hardware, h⟩ = step := by
  funext s
  rw [stepFor, execFor_hardware, step]

end Sys2Proof.Machine

namespace Sys2Proof

/-! ## Payload words -/

/-- Taking as many words as a list has, before whatever follows, gives the list. -/
theorem takeWords_append (l rest : List Word) : takeWords l.length (l ++ rest) = some (l, rest) := by
  induction l with
  | nil => rfl
  | cons w l ih => simp [takeWords, ih]

/-- Everything taking `n` words can do. -/
theorem takeWords_eq_some {n : Nat} {ws got rest : List Word} (h : takeWords n ws = some (got, rest)) :
    got.length = n ∧ ws = got ++ rest := by
  induction n generalizing ws got rest with
  | zero => cases h; simp
  | succ n ih =>
    cases ws with
    | nil => cases h
    | cons w ws =>
      simp only [takeWords] at h
      split at h
      · rename_i g r hg
        obtain ⟨rfl, rfl⟩ := ih hg
        cases h
        simp
      · cases h

end Sys2Proof
end

