-- ==== Sys2Proof/Laws/PerInstr.lean ====
section
/-! SUPPORT. Statements about every command as syntax, one lemma per constructor of `Instr`. -/

namespace Sys2Proof.Laws

/-! ## The first word of an encoding (R111) -/

theorem opcField_commandWord (opc ch : BitVec 8) (arg : BitVec 16) : opcField (commandWord opc ch arg) = opc := by
  simp only [opcField, commandWord]; refine BitVec.eq_of_getLsbD_eq fun i hi => ?_
  simp only [BitVec.getLsbD_extractLsb', BitVec.getLsbD_append, hi, decide_true, Bool.true_and]
  simp [show ¬ 24 + i < 16 by omega, show ¬ 24 + i - 16 < 8 by omega, show 24 + i - 16 - 8 = i by omega]

theorem chField_commandWord (opc ch : BitVec 8) (arg : BitVec 16) : chField (commandWord opc ch arg) = ch := by
  simp only [chField, commandWord]; refine BitVec.eq_of_getLsbD_eq fun i hi => ?_
  simp only [BitVec.getLsbD_extractLsb', BitVec.getLsbD_append, hi, decide_true, Bool.true_and]
  simp [show ¬ 16 + i < 16 by omega, hi]

theorem argField_commandWord (opc ch : BitVec 8) (arg : BitVec 16) : argField (commandWord opc ch arg) = arg := by
  simp only [argField, commandWord]; refine BitVec.eq_of_getLsbD_eq fun i hi => ?_
  simp only [BitVec.getLsbD_extractLsb', BitVec.getLsbD_append, hi, decide_true, Bool.true_and]
  simp [hi]

/-- The operation code of an operation selects that operation (R121). -/
theorem ofCode_code (o : Opcode) : Opcode.ofCode o.code = some o := by cases o <;> rfl

/-- The encoding of a command starts with one word, from which the decoder reads back its operation, its `ch` and its `arg`;
the payload words follow it. -/
def EncodeHead.Statement (i : Instr) : Prop :=
  ∃ w, encode i = w :: i.payload ∧ Opcode.ofCode (opcField w) = some i.opcode ∧ chField w = i.ch ∧ argField w = i.arg

/-- A word that `commandWord` builds from the fields of a command has the property. -/
theorem encodeHead_of_command (i : Instr) : EncodeHead.Statement i :=
  ⟨commandWord i.opcode.code i.ch i.arg, rfl, by rw [opcField_commandWord, ofCode_code], chField_commandWord _ _ _,
    argField_commandWord _ _ _⟩

theorem EncodeHead.nop (ch : BitVec 8) (arg : BitVec 16) :
    EncodeHead.Statement (.nop ch arg) := encodeHead_of_command _

theorem EncodeHead.reset (ch : BitVec 8) (arg : BitVec 16) :
    EncodeHead.Statement (.reset ch arg) := encodeHead_of_command _

theorem EncodeHead.csrWrite (ch : BitVec 8) (arg : BitVec 16) (v : Word) :
    EncodeHead.Statement (.csrWrite ch arg v) := encodeHead_of_command _

theorem EncodeHead.csrRead (ch : BitVec 8) (arg : BitVec 16) :
    EncodeHead.Statement (.csrRead ch arg) := encodeHead_of_command _

theorem EncodeHead.chConfig (ch : BitVec 8) (arg : BitVec 16) (w0 : Word) (tx : MapRecord) (rx : MapRecord) :
    EncodeHead.Statement (.chConfig ch arg w0 tx rx) := encodeHead_of_command _

theorem EncodeHead.chDeconfig (ch : BitVec 8) (arg : BitVec 16) :
    EncodeHead.Statement (.chDeconfig ch arg) := encodeHead_of_command _

theorem EncodeHead.chStatus (ch : BitVec 8) (arg : BitVec 16) :
    EncodeHead.Statement (.chStatus ch arg) := encodeHead_of_command _

theorem EncodeHead.lsb8msb (ch : BitVec 8) (arg : BitVec 16) (bits : List Word) :
    EncodeHead.Statement (.lsb8msb ch arg bits) := encodeHead_of_command _

theorem EncodeHead.parEncode (ch : BitVec 8) (arg : BitVec 16) (data : List Word) :
    EncodeHead.Statement (.parEncode ch arg data) := encodeHead_of_command _

theorem EncodeHead.parSyndrome (ch : BitVec 8) (arg : BitVec 16) (codeword : List Word) :
    EncodeHead.Statement (.parSyndrome ch arg codeword) := encodeHead_of_command _

theorem EncodeHead.rachCheck (ch : BitVec 8) (arg : BitVec 16) (u : Word) :
    EncodeHead.Statement (.rachCheck ch arg u) := encodeHead_of_command _

theorem EncodeHead.xcchCode (ch : BitVec 8) (arg : BitVec 16) (frame : List Word) :
    EncodeHead.Statement (.xcchCode ch arg frame) := encodeHead_of_command _

theorem EncodeHead.xcchDecode (ch : BitVec 8) (arg : BitVec 16) (soft : List Word) :
    EncodeHead.Statement (.xcchDecode ch arg soft) := encodeHead_of_command _

theorem EncodeHead.schCode (ch : BitVec 8) (arg : BitVec 16) (data : Word) :
    EncodeHead.Statement (.schCode ch arg data) := encodeHead_of_command _

theorem EncodeHead.convEncode (ch : BitVec 8) (arg : BitVec 16) (bits : List Word) :
    EncodeHead.Statement (.convEncode ch arg bits) := encodeHead_of_command _

theorem EncodeHead.viterbiDecode (ch : BitVec 8) (arg : BitVec 16) (soft : List Word) :
    EncodeHead.Statement (.viterbiDecode ch arg soft) := encodeHead_of_command _

theorem EncodeHead.xcchInterleave (ch : BitVec 8) (arg : BitVec 16) (coded : List Word) :
    EncodeHead.Statement (.xcchInterleave ch arg coded) := encodeHead_of_command _

theorem EncodeHead.xcchDeinterleave (ch : BitVec 8) (arg : BitVec 16) (rows : List Word) :
    EncodeHead.Statement (.xcchDeinterleave ch arg rows) := encodeHead_of_command _

theorem EncodeHead.tchInterleave (ch : BitVec 8) (arg : BitVec 16) (coded : List Word) (rows : List Word) :
    EncodeHead.Statement (.tchInterleave ch arg coded rows) := encodeHead_of_command _

theorem EncodeHead.tchDeinterleave (ch : BitVec 8) (arg : BitVec 16) (rows : List Word) :
    EncodeHead.Statement (.tchDeinterleave ch arg rows) := encodeHead_of_command _

theorem EncodeHead.burstMap (ch : BitVec 8) (arg : BitVec 16) (row : List Word) :
    EncodeHead.Statement (.burstMap ch arg row) := encodeHead_of_command _

theorem EncodeHead.burstUnmap (ch : BitVec 8) (arg : BitVec 16) (sym : List Word) :
    EncodeHead.Statement (.burstUnmap ch arg sym) := encodeHead_of_command _

theorem EncodeHead.tchSpeechEncode (ch : BitVec 8) (arg : BitVec 16) (frame : List Word) :
    EncodeHead.Statement (.tchSpeechEncode ch arg frame) := encodeHead_of_command _

theorem EncodeHead.tchSpeechDecode (ch : BitVec 8) (arg : BitVec 16) (soft : List Word) :
    EncodeHead.Statement (.tchSpeechDecode ch arg soft) := encodeHead_of_command _

theorem EncodeHead.l2Data (ch : BitVec 8) (arg : BitVec 16) (frame : List Word) :
    EncodeHead.Statement (.l2Data ch arg frame) := encodeHead_of_command _

theorem EncodeHead.l2Establish (ch : BitVec 8) (arg : BitVec 16) :
    EncodeHead.Statement (.l2Establish ch arg) := encodeHead_of_command _

theorem EncodeHead.l2Release (ch : BitVec 8) (arg : BitVec 16) :
    EncodeHead.Statement (.l2Release ch arg) := encodeHead_of_command _

theorem EncodeHead.l2Error (ch : BitVec 8) (arg : BitVec 16) :
    EncodeHead.Statement (.l2Error ch arg) := encodeHead_of_command _

theorem EncodeHead.rxBurst (ch : BitVec 8) (arg : BitVec 16) (time : Word) (meas : Word) (sym : List Word) :
    EncodeHead.Statement (.rxBurst ch arg time meas sym) := encodeHead_of_command _

theorem EncodeHead.rachService (ch : BitVec 8) (arg : BitVec 16) :
    EncodeHead.Statement (.rachService ch arg) := encodeHead_of_command _

theorem EncodeHead.idleFill (ch : BitVec 8) (arg : BitVec 16) :
    EncodeHead.Statement (.idleFill ch arg) := encodeHead_of_command _

theorem EncodeHead.schSend (ch : BitVec 8) (arg : BitVec 16) (data : Word) :
    EncodeHead.Statement (.schSend ch arg data) := encodeHead_of_command _

theorem EncodeHead.fcchSend (ch : BitVec 8) (arg : BitVec 16) :
    EncodeHead.Statement (.fcchSend ch arg) := encodeHead_of_command _

theorem EncodeHead.tchSendSlot (ch : BitVec 8) (arg : BitVec 16) :
    EncodeHead.Statement (.tchSendSlot ch arg) := encodeHead_of_command _

theorem EncodeHead.tchSpeechPush (ch : BitVec 8) (arg : BitVec 16) (frame : List Word) :
    EncodeHead.Statement (.tchSpeechPush ch arg frame) := encodeHead_of_command _

theorem EncodeHead.resync (ch : BitVec 8) (arg : BitVec 16) :
    EncodeHead.Statement (.resync ch arg) := encodeHead_of_command _

theorem EncodeHead.waitToSend (ch : BitVec 8) (arg : BitVec 16) :
    EncodeHead.Statement (.waitToSend ch arg) := encodeHead_of_command _

theorem EncodeHead.phyRead (ch : BitVec 8) (arg : BitVec 16) :
    EncodeHead.Statement (.phyRead ch arg) := encodeHead_of_command _

theorem EncodeHead.ferGood (ch : BitVec 8) (arg : BitVec 16) :
    EncodeHead.Statement (.ferGood ch arg) := encodeHead_of_command _

theorem EncodeHead.ferBad (ch : BitVec 8) (arg : BitVec 16) :
    EncodeHead.Statement (.ferBad ch arg) := encodeHead_of_command _

theorem EncodeHead.fnAdd (ch : BitVec 8) (arg : BitVec 16) (t : Word) (k : Word) :
    EncodeHead.Statement (.fnAdd ch arg t k) := encodeHead_of_command _

theorem EncodeHead.fnDelta (ch : BitVec 8) (arg : BitVec 16) (a : Word) (b : Word) :
    EncodeHead.Statement (.fnDelta ch arg a b) := encodeHead_of_command _

theorem EncodeHead.timeCmp (ch : BitVec 8) (arg : BitVec 16) (t1 : Word) (t2 : Word) :
    EncodeHead.Statement (.timeCmp ch arg t1 t2) := encodeHead_of_command _

theorem EncodeHead.mapReverse (ch : BitVec 8) (arg : BitVec 16) (t : Word) :
    EncodeHead.Statement (.mapReverse ch arg t) := encodeHead_of_command _

theorem EncodeHead.mapRoll (ch : BitVec 8) (arg : BitVec 16) (t : Word) (k : Word) :
    EncodeHead.Statement (.mapRoll ch arg t k) := encodeHead_of_command _

end Sys2Proof.Laws
end

