-- ==== Sys2Proof/Tests/Slice0.lean ====
section
/-! SUPPORT. Tests of the model. Expected results come from the encodings of 30_encoding.md and from the vectors and programs
of 95_test_vectors.md, named at each test. The witnesses at the end show, for every statement with hypotheses, a state and
operands that meet them. -/

namespace Sys2Proof.Tests

open Sys2Proof Sys2Proof.Machine

set_option Elab.async false

/-! ## Helpers -/

/-- The frame `01 03 01 2B×20` of V-XCCH. -/
def frameF : List Word := [0x0103012B#32, 0x2B2B2B2B#32, 0x2B2B2B2B#32, 0x2B2B2B2B#32, 0x2B2B2B2B#32, 0x2B2B2B00#32]

/-- MAP_A of 95_test_vectors.md in one direction, tag 5, allowed on every timeslot. -/
def mapA (down : Bool) : Mapping := ⟨0xFF#8, down, 51#32, [4#32, 5#32, 6#32, 7#32], 5#8⟩

/-- MAP_T of 95_test_vectors.md. -/
def mapT (down : Bool) : Mapping :=
  ⟨0x02#8, down, 26#32, [0#32, 1#32, 2#32, 3#32, 4#32, 5#32, 6#32, 7#32], 7#8⟩

/-- MAP_B of 95_test_vectors.md. -/
def mapB : Mapping :=
  ⟨0x20#8, true, 102#32, [12#32, 13#32, 14#32, 15#32, 63#32, 64#32, 65#32, 66#32], 6#8⟩

/-- An open context of a kind on timeslot 2, C0, ARFCN 17, its schedule at `(106,2)` after `(100,2)`. -/
def openCtx (k : Kind) (tx rx : Option Mapping) : Ctx :=
  { cfg := ⟨k, 2#3, true, 17#16, tx, rx, true⟩
    enc := { Encoder.reset with active := k.hasEncoder, nextWT := ⟨106, 2#3⟩, prevWT := ⟨100, 2#3⟩ }
    dec := { Decoder.reset with accepting := k == .rach || rx.isSome } }

/-- The reset state with context 3 in place and `NOW_TIME = (100,3)`, `NOW_MS = 5000`, `BSIC = 7`. -/
def at3 (c : Ctx) : State :=
  { State.reset with
    ctx := (Ctx.allReset hardware).set 3 c, nowTime := ⟨100, 3#3⟩, nowMs := 5000#32
    csr := { Csr.reset hardware with bsic := 7#32 } }

def xcch : Ctx := openCtx .xcch (some (mapA true)) (some (mapA false))
def sacch : Ctx := openCtx .sacch (some (mapA true)) (some (mapA false))
def rach : Ctx := openCtx .rach none (some (mapA false))
def sch : Ctx := openCtx .sch (some (mapA true)) none
def fcch : Ctx := openCtx .fcch (some (mapA true)) none
def tch : Ctx :=
  { openCtx .tch (some { mapT true with allowed := 0xFF#8 }) (some { mapT false with allowed := 0xFF#8 }) with
    enc := { Encoder.reset with active := true, nextWT := ⟨104, 2#3⟩, prevWT := ⟨100, 2#3⟩ } }

/-- `s` in the fault state. -/
def faulted (s : State) : State := { s with csr := { s.csr with fault := 0x80000710#32 } }

/-- What one step on these command words answers: the status word and the response words. -/
def reply (s : State) (ws : List Word) : List Word :=
  match step { s with cmd := ws } with
  | .next t => t.answers.getLastD []
  | _ => []

/-- The state after one step on these command words. -/
def after (s : State) (ws : List Word) : State :=
  match step { s with cmd := ws } with
  | .next t => t
  | _ => s

/-! ## Well-formedness: each check refuses an ill-formed term -/

theorem test_wf_refuses_lengths :
    (Instr.lsb8msb 0#8 33#16 [0#32]).wf = false ∧ (Instr.parEncode 0#8 0#16 (List.replicate 7 0#32)).wf = false ∧
    (Instr.parSyndrome 0#8 0#16 (List.replicate 6 0#32)).wf = false ∧ (Instr.xcchCode 0#8 0#16 []).wf = false ∧
    (Instr.xcchDecode 0#8 0#16 []).wf = false ∧ (Instr.convEncode 0#8 64#16 [0#32]).wf = false ∧
    (Instr.viterbiDecode 0#8 5#16 [0#32, 0#32]).wf = false ∧
    (Instr.xcchInterleave 0#8 0#16 (List.replicate 16 0#32)).wf = false ∧
    (Instr.xcchDeinterleave 0#8 0#16 []).wf = false ∧
    (Instr.tchInterleave 0#8 0#16 (List.replicate 14 0#32) (List.replicate 32 0#32)).wf = false ∧
    (Instr.tchInterleave 0#8 0#16 (List.replicate 15 0#32) (List.replicate 31 0#32)).wf = false := by decide

theorem test_wf_refuses_more_lengths :
    (Instr.tchDeinterleave 0#8 0#16 []).wf = false ∧ (Instr.burstMap 0#8 0#16 [0#32]).wf = false ∧
    (Instr.burstUnmap 0#8 0#16 []).wf = false ∧ (Instr.tchSpeechEncode 0#8 0#16 []).wf = false ∧
    (Instr.tchSpeechDecode 0#8 0#16 []).wf = false ∧ (Instr.l2Data 3#8 0#16 []).wf = false ∧
    (Instr.rxBurst 3#8 0#16 0#32 0#32 []).wf = false ∧ (Instr.tchSpeechPush 3#8 0#16 []).wf = false ∧
    (Instr.chConfig 3#8 0#16 0#32 ⟨0x04000000#32, 51#32, [4#32]⟩ ⟨0#32, 0#32, []⟩).wf = false ∧
    (Instr.chConfig 3#8 0#16 0#32 ⟨0#32, 0#32, []⟩ ⟨0#32, 0#32, [1#32]⟩).wf = false := by decide

/-! ## Decoding: words written out from R111, R113, R118, R119 -/

theorem test_decode_nop : decode [0x00000000#32] = .instr (.nop 0#8 0#16) [] := by decide
theorem test_decode_reset : decode [0x01050007#32] = .instr (.reset 5#8 7#16) [] := by decide
theorem test_decode_csr_write :
    decode [0x02000002#32, 0xFFFFFFC7#32]
      = .instr (.csrWrite 0#8 2#16 0xFFFFFFC7#32) [] := by decide
theorem test_decode_csr_read : decode [0x0300000D#32] = .instr (.csrRead 0#8 13#16) [] := by decide
theorem test_decode_ch_config :
    decode [0x04030000#32, 0x15000011#32, 0x04040580#32, 0x00000033#32, 0x00000004#32, 0x00000005#32, 0x00000006#32, 0x00000007#32, 0x00000000#32, 0x00000000#32]
      = .instr (.chConfig 3#8 0#16 0x15000011#32 ⟨0x04040580#32, 51#32, [4#32, 5#32, 6#32, 7#32]⟩ ⟨0#32, 0#32, []⟩) [] := by decide
theorem test_decode_ch_deconfig : decode [0x053F0000#32] = .instr (.chDeconfig 63#8 0#16) [] := by decide
theorem test_decode_ch_status : decode [0x06400000#32] = .instr (.chStatus 64#8 0#16) [] := by decide
theorem test_decode_lsb8msb :
    decode [0x1000000C#32, 0x12300000#32]
      = .instr (.lsb8msb 0#8 12#16 [0x12300000#32]) [] := by decide
theorem test_decode_par_encode :
    decode [0x20000001#32, 0x00000080#32]
      = .instr (.parEncode 0#8 1#16 [0x00000080#32]) [] := by decide
theorem test_decode_par_syndrome :
    decode [0x21000003#32, 0x00000001#32, 0x00000002#32]
      = .instr (.parSyndrome 0#8 3#16 [1#32, 2#32]) [] := by decide
theorem test_decode_rach_check :
    decode [0x22000007#32, 0x5AA40000#32]
      = .instr (.rachCheck 0#8 7#16 0x5AA40000#32) [] := by decide
theorem test_decode_xcch_code :
    decode ([0x23000000#32] ++ (frameF) ++ [0xABCD0123#32])
      = .instr (.xcchCode 0#8 0#16 frameF) [0xABCD0123#32] := by decide
theorem test_decode_xcch_decode :
    decode ([0x24000000#32] ++ (List.replicate 114 0#32) ++ [0xABCD0123#32])
      = .instr (.xcchDecode 0#8 0#16 (List.replicate 114 0#32)) [0xABCD0123#32] := by decide
theorem test_decode_sch_code :
    decode [0x25000000#32, 0x91A2B380#32]
      = .instr (.schCode 0#8 0#16 0x91A2B380#32) [] := by decide
theorem test_decode_conv_encode :
    decode [0x30000005#32, 0x80000000#32]
      = .instr (.convEncode 0#8 5#16 [0x80000000#32]) [] := by decide
theorem test_decode_viterbi_decode :
    decode [0x31000005#32, 0xFEFE00FE#32, 0x0000FEFE#32, 0xFEFE0000#32]
      = .instr (.viterbiDecode 0#8 5#16 [0xFEFE00FE#32, 0x0000FEFE#32, 0xFEFE0000#32]) [] := by decide
theorem test_decode_xcch_interleave :
    decode ([0x32000000#32] ++ (List.replicate 15 0#32) ++ [0xABCD0123#32])
      = .instr (.xcchInterleave 0#8 0#16 (List.replicate 15 0#32)) [0xABCD0123#32] := by decide
theorem test_decode_xcch_deinterleave :
    decode ([0x33000000#32] ++ (List.replicate 116 0#32) ++ [0xABCD0123#32])
      = .instr (.xcchDeinterleave 0#8 0#16 (List.replicate 116 0#32)) [0xABCD0123#32] := by decide
theorem test_decode_tch_interleave :
    decode ([0x34000004#32] ++ (List.replicate 15 0#32 ++ List.replicate 32 1#32) ++ [0xABCD0123#32])
      = .instr (.tchInterleave 0#8 4#16 (List.replicate 15 0#32) (List.replicate 32 1#32)) [0xABCD0123#32] := by decide
theorem test_decode_tch_deinterleave :
    decode ([0x35000004#32] ++ (List.replicate 232 0#32) ++ [0xABCD0123#32])
      = .instr (.tchDeinterleave 0#8 4#16 (List.replicate 232 0#32)) [0xABCD0123#32] := by decide +kernel
theorem test_decode_burst_map :
    decode ([0x3600001F#32] ++ (List.replicate 4 0#32) ++ [0xABCD0123#32])
      = .instr (.burstMap 0#8 31#16 (List.replicate 4 0#32)) [0xABCD0123#32] := by decide
theorem test_decode_burst_unmap :
    decode ([0x37000000#32] ++ (List.replicate 37 0#32) ++ [0xABCD0123#32])
      = .instr (.burstUnmap 0#8 0#16 (List.replicate 37 0#32)) [0xABCD0123#32] := by decide
theorem test_decode_tch_speech_encode :
    decode ([0x38000000#32] ++ (List.replicate 9 0#32) ++ [0xABCD0123#32])
      = .instr (.tchSpeechEncode 0#8 0#16 (List.replicate 9 0#32)) [0xABCD0123#32] := by decide
theorem test_decode_tch_speech_decode :
    decode ([0x39000000#32] ++ (List.replicate 114 0#32) ++ [0xABCD0123#32])
      = .instr (.tchSpeechDecode 0#8 0#16 (List.replicate 114 0#32)) [0xABCD0123#32] := by decide
theorem test_decode_l2_data :
    decode ([0x40030000#32] ++ (frameF) ++ [0xABCD0123#32])
      = .instr (.l2Data 3#8 0#16 frameF) [0xABCD0123#32] := by decide
theorem test_decode_l2_establish : decode [0x41030001#32] = .instr (.l2Establish 3#8 1#16) [] := by decide
theorem test_decode_l2_release : decode [0x42030000#32] = .instr (.l2Release 3#8 0#16) [] := by decide
theorem test_decode_l2_error : decode [0x43030000#32] = .instr (.l2Error 3#8 0#16) [] := by decide
theorem test_decode_rx_burst :
    decode ([0x50050000#32, 0x0000006A#32, 0xBA00044D#32] ++ (List.replicate 37 0#32) ++ [0xABCD0123#32])
      = .instr (.rxBurst 5#8 0#16 0x0000006A#32 0xBA00044D#32 (List.replicate 37 0#32)) [0xABCD0123#32] := by decide
theorem test_decode_rach_service : decode [0x51050000#32] = .instr (.rachService 5#8 0#16) [] := by decide
theorem test_decode_idle_fill : decode [0x60010000#32] = .instr (.idleFill 1#8 0#16) [] := by decide
theorem test_decode_sch_send :
    decode [0x61020000#32, 0x91A2B380#32]
      = .instr (.schSend 2#8 0#16 0x91A2B380#32) [] := by decide
theorem test_decode_fcch_send : decode [0x62010000#32] = .instr (.fcchSend 1#8 0#16) [] := by decide
theorem test_decode_tch_send_slot : decode [0x63020000#32] = .instr (.tchSendSlot 2#8 0#16) [] := by decide
theorem test_decode_tch_speech_push :
    decode ([0x64020000#32] ++ (List.replicate 9 0#32) ++ [0xABCD0123#32])
      = .instr (.tchSpeechPush 2#8 0#16 (List.replicate 9 0#32)) [0xABCD0123#32] := by decide
theorem test_decode_resync : decode [0x65010000#32] = .instr (.resync 1#8 0#16) [] := by decide
theorem test_decode_wait_to_send : decode [0x66010000#32] = .instr (.waitToSend 1#8 0#16) [] := by decide
theorem test_decode_phy_read : decode [0x70040000#32] = .instr (.phyRead 4#8 0#16) [] := by decide
theorem test_decode_fer_good : decode [0x71040000#32] = .instr (.ferGood 4#8 0#16) [] := by decide
theorem test_decode_fer_bad : decode [0x72040000#32] = .instr (.ferBad 4#8 0#16) [] := by decide
theorem test_decode_fn_add :
    decode [0x80000000#32, 0x60296FFF#32, 0x00000002#32]
      = .instr (.fnAdd 0#8 0#16 0x60296FFF#32 2#32) [] := by decide
theorem test_decode_fn_delta :
    decode [0x81000000#32, 0x00000000#32, 0x00296FFF#32]
      = .instr (.fnDelta 0#8 0#16 0#32 0x00296FFF#32) [] := by decide
theorem test_decode_time_cmp :
    decode [0x82000000#32, 0x40000005#32, 0xC0000005#32]
      = .instr (.timeCmp 0#8 0#16 0x40000005#32 0xC0000005#32) [] := by decide
theorem test_decode_map_reverse :
    decode [0x83010000#32, 0x000000A5#32]
      = .instr (.mapReverse 1#8 0#16 0x000000A5#32) [] := by decide
theorem test_decode_map_roll :
    decode [0x84010000#32, 0x00296FFF#32, 0x00000004#32]
      = .instr (.mapRoll 1#8 0#16 0x00296FFF#32 4#32) [] := by decide

theorem test_decode_refuses_by_name :
    decode [0x07000000#32] = .illegalOpcode 0x07000000#32 [] ∧ decode [0x44C80000#32] = .illegalPrimitive 0x44C80000#32 [] ∧
    decode [0x4F000000#32] = .illegalPrimitive 0x4F000000#32 [] ∧ decode [0x85000000#32] = .illegalOpcode 0x85000000#32 [] ∧
    decode [0xFF000000#32] = .illegalOpcode 0xFF000000#32 [] ∧ decode [0x23000000#32, 1#32] = .incomplete := by decide

theorem test_decode_table_word :
    decodeTableWord 32 0x63020000 = some (.tchSendSlot 2#8 0#16) ∧ decodeTableWord 32 0x07000000 = none ∧
    decodeTableWord 32 0x04030000 = some (.chConfig 3#8 0#16 0#32 ⟨0#32, 0#32, []⟩ ⟨0#32, 0#32, []⟩) := by decide +kernel

/-! ## Instructions: vectors and programs of 95_test_vectors.md -/

/-- Context 3 after one step on these command words. -/
def ctx3After (c : Ctx) (ws : List Word) : Ctx := (after (at3 c) ws).getCtx 3#8

-- V-CH-8, P6 step 4
theorem test_nop : reply State.reset [0#32] = [0#32] ∧ reply (faulted State.reset) [0#32] = [0x00FF0000#32] := by
  decide +kernel

-- P6 step 8; R276: ch and arg are ignored
theorem test_reset : reply (faulted (at3 tch)) [0x01000000#32] = [0x01000000#32] ∧
    (after (faulted (at3 tch)) [0x01FF0009#32]).csr = Csr.reset hardware ∧
    ((after (at3 tch) [0x01000000#32]).getCtx 3#8).cfg = ChanConfig.reset := by decide +kernel

-- V-CH-4, V-CH-6
theorem test_csr_write : (after State.reset [0x02000002#32, 0xFFFFFFC7#32]).csr.bsic = 7#32 ∧
    reply State.reset [0x02000006#32, 0x11#32] = [0x02070000#32] := by decide +kernel

-- V-CH-5: a timeout of 0; R34: 2^31 - 1 is the largest
theorem test_csr_write_timeout : reply State.reset [0x02000004#32, 0#32] = [0x02070000#32] ∧
    (after State.reset [0x02000004#32, 0x7FFFFFFF#32]).csr.t3109Ms = 0x7FFFFFFF#32 ∧
    reply State.reset [0x02000004#32, 0x80000000#32] = [0x02070000#32] := by decide +kernel

-- V-CH-2, V-CH-7, P6 steps 6 and 7
theorem test_csr_read : reply State.reset [0x03000004#32] = [0x03000001#32, 0x00004A38#32] ∧
    reply State.reset [0x0300000E#32] = [0x03070000#32] ∧
    reply (faulted State.reset) [0x03000001#32] = [0x03000001#32, 0x80000710#32] ∧
    reply (faulted State.reset) [0x03000020#32] = [0x03FF0000#32] := by decide +kernel

/-- The reset state at `NOW_TIME = (2715640,5)`, after step 2 of program P3. -/
def p3Configured : State :=
  after { State.reset with nowTime := ⟨2715640, 5#3⟩ }
    [0x04010000#32, 0x1A000020#32, 0x08200680#32, 0x66#32, 12#32, 13#32, 14#32, 15#32, 63#32, 64#32, 65#32, 66#32, 0#32, 0#32]

-- P3 step 2: the reseat crosses the hyperframe wrap
theorem test_ch_config : p3Configured.answers = [[0x04000000#32]] ∧
    (p3Configured.getCtx 1#8).cfg = ⟨.xcch, 5#3, false, 32#16, some mapB, none, true⟩ ∧
    (p3Configured.getCtx 1#8).enc.nextWT = ⟨12, 5#3⟩ ∧ (p3Configured.getCtx 1#8).enc.prevWT = ⟨2715640, 5#3⟩ := by
  decide +kernel

/-- An SCH configuration of context 3 on timeslot 2 with this downlink record head. -/
def schConfig (head : Word) : List Word := [0x04030000#32, 0x44000011#32, head, 51#32, 0#32, 50#32, 0#32, 0#32]

-- V-CH-12, V-CH-14, V-EXC-7: a running context; p = 50; kind 7. R244 items 5 and 6: the `downlink` bit 0 in a downlink
-- mapping, `allowed` without timeslot 2; the same record with both right
theorem test_ch_config_error :
    reply (at3 xcch) [0x04030000#32, 0x14000000#32, 0#32, 0#32, 0#32, 0#32] = [0x04050000#32] ∧
    reply State.reset [0x04030000#32, 0x14000000#32, 0x04040080#32, 50#32, 4#32, 5#32, 6#32, 7#32, 0#32, 0#32]
      = [0x04050000#32] ∧
    (after State.reset [0x04030000#32, 0x70000000#32, 0#32, 0#32, 0#32, 0#32]).csr.fault = 0x80030504#32 ∧
    reply State.reset (schConfig 0x02040000#32) = [0x04050000#32] ∧
    reply State.reset (schConfig 0x02FB0080#32) = [0x04050000#32] ∧
    reply State.reset (schConfig 0x02040080#32) = [0x04000000#32] := by
  decide +kernel

-- V-CH-10
theorem test_ch_deconfig : reply (at3 xcch) [0x05030000#32] = [0x05000000#32] ∧
    (reply (after (at3 xcch) [0x05030000#32]) [0x06030000#32])[1]? = some 0#32 := by decide +kernel

-- V-CH-11
theorem test_ch_status_channel : reply State.reset [0x06400000#32] = [0x06030000#32] ∧
    (after State.reset [0x06400000#32]).csr.fault = 0x80400306#32 := by decide +kernel

-- P5 steps 8 and 9: T3109 one millisecond before its end and at it
theorem test_ch_status_expiry :
    let c : Ctx := { xcch with dec := { xcch.dec with t3109 := ⟨true, 5000#32, 19000#32⟩, fer := 0x013B13B1#32 } }
    reply { at3 c with nowMs := 23999#32 } [0x06030000#32]
      = [0x06000006#32, 0x1500040F#32, 0x013B13B1#32, 0x4000006A#32, 0x40000064#32, 0x00000005#32, 0#32] ∧
    (reply { at3 c with nowMs := 24000#32 } [0x06030000#32])[1]? = some 0x15000817#32 := by decide +kernel

-- V-BIT-3, V-BIT-6
theorem test_lsb8msb : reply State.reset [0x1000000C#32, 0x12300000#32] = [0x10000001#32, 0x48300000#32] ∧
    reply State.reset [0x10000000#32] = [0x10070000#32] := by decide +kernel

-- V-BC-1, V-BC-4
theorem test_par_encode : reply State.reset [0x20000000#32, 0#32, 0#32, 0#32, 0#32, 0#32, 0x00000100#32]
      = [0x20000004#32, 0x00048200#32, 0x09000000#32, 0xFFFB7DFF#32, 0xF6000000#32] ∧
    reply State.reset [0x20000001#32, 0x00000080#32] = [0x20000002#32, 0x5D400000#32, 0xA2800000#32] := by decide +kernel

-- V-BC-11, V-BC-6
theorem test_par_encode_codes : reply State.reset [0x20000004#32] = [0x20070000#32] ∧
    reply State.reset [0x20000003#32, 0#32, 0x00004000#32] = [0x20000002#32, 0x60000000#32, 0x80000000#32] := by
  decide +kernel

-- V-BC-8, V-BC-10
theorem test_par_syndrome :
    reply State.reset [0x21000000#32, 0x80000000#32, 0#32, 0#32, 0#32, 0#32, 0#32, 0#32]
      = [0x21000002#32, 0x6B2881D6#32, 0x51000000#32] ∧
    reply State.reset [0x21000000#32, 0#32, 0#32, 0#32, 0#32, 0#32, 0x000000FF#32, 0xFFFFFFFF#32]
      = [0x21000002#32, 0xFFFFFFFF#32, 0xFF000000#32] := by decide +kernel

-- V-RACH-1, V-RACH-2, V-RACH-3, V-RACH-6
theorem test_rach_check : reply State.reset [0x22000007#32, 0x5AA40000#32] = [0x22000001#32, 0xC000005A#32] ∧
    reply State.reset [0x22000006#32, 0x5AA40000#32] = [0x22000001#32, 0x8000005A#32] ∧
    reply State.reset [0x22000007#32, 0x5AA44000#32] = [0x22000001#32, 0x4000005A#32] ∧
    reply State.reset [0x22000007#32, 0x80900000#32] = [0x22000001#32, 0xC0000001#32] := by decide +kernel

/-- The coded block of V-XCCH-3. -/
def codedF : List Word :=
  [0xD3C0E730#32, 0xD3C0E44B#32, 0x144B144B#32, 0x144B144B#32, 0x144B144B#32, 0x144B144B#32, 0x144B144B#32, 0x144B144B#32,
    0x144B144B#32, 0x144B144B#32, 0x144B144B#32, 0x144B23C3#32, 0xA538FDE1#32, 0x6D21590C#32, 0x00000000#32]

-- V-XCCH-3
theorem test_xcch_code : reply State.reset (0x23000000#32 :: frameF) = 0x2300000F#32 :: codedF := by decide +kernel

-- V-XCCH-7
theorem test_xcch_decode_erasures : reply State.reset (0x24000000#32 :: List.replicate 114 0x7F7F7F7F#32)
    = [0x24000007#32, 0#32, 0#32, 0#32, 0#32, 0#32, 0#32, 0#32] := by decide +kernel

-- V-BC-13
theorem test_sch_code : reply State.reset [0x25000000#32, 0x91A2B380#32]
    = [0x25000003#32, 0xD08C91F1#32, 0xE1BD9935#32, 0xCC000000#32] := by decide +kernel

-- V-CONV-1, V-CONV-3, V-CONV-10
theorem test_conv_encode : reply State.reset [0x30000005#32, 0x80000000#32] = [0x30000001#32, 0xD3C00000#32] ∧
    reply State.reset [0x30000008#32, 0xB0000000#32] = [0x30000001#32, 0xDDB30000#32] ∧
    reply State.reset [0x30000004#32, 0#32] = [0x30070000#32] := by decide +kernel

-- V-CONV-6, V-CONV-8, V-CONV-9
theorem test_viterbi_decode :
    reply State.reset [0x31000008#32, 0xFEFE0000#32, 0xFEFE00FE#32, 0xFE00FEFE#32, 0x0000FEFE#32]
      = [0x31000001#32, 0xB0000000#32] ∧
    reply State.reset [0x31000005#32, 0x7F7F7F7F#32, 0x7F7F7F7F#32, 0x7F7F0000#32] = [0x31000001#32, 0#32] ∧
    reply State.reset [0x31000005#32, 0x7F7F7F7F#32, 0x7F7F7F7F#32, 0x7FFF0000#32] = [0x31070000#32] := by decide +kernel

/-- The rows of V-IL-8. -/
def rowsF : List Word :=
  [0x811D5022#32, 0x115D4020#32, 0x15510A04#32, 0x7D400000#32, 0xABF7502A#32, 0xAF75022B#32, 0xFF402AAB#32, 0x75400000#32,
    0x01D51080#32, 0x17D40A10#32, 0x75448007#32, 0x54408000#32, 0x102BBDD4#32, 0x00BEF554#32, 0xAAED5540#32, 0x2EDD4000#32]

-- V-IL-8
theorem test_xcch_interleave : reply State.reset (0x32000000#32 :: codedF) = 0x32000010#32 :: rowsF := by decide +kernel

-- V-IL-1 read backwards: symbol 98 of row 1 is coded bit 1
theorem test_xcch_deinterleave :
    (deinterleave 0 (vecOf 4 fun r => vecOf 114 fun j => if r = 1 ∧ j = 98 then 254#8 else 0#8)).toList.take 3
      = [0#8, 254#8, 0#8] ∧
    (reply State.reset (0x33000000#32 :: List.replicate 116 0xFE000000#32))[0]? = some 0x33000072#32 := by decide +kernel

-- V-IL-5
theorem test_tch_interleave :
    reply State.reset (0x34000004#32 :: 0x80000000#32 :: List.replicate 46 0#32)
      = 0x34000020#32 :: (List.replicate 16 0#32 ++ 0x80000000#32 :: List.replicate 15 0#32) := by decide +kernel

-- V-IL-11
theorem test_tch_interleave_offset : reply State.reset (0x34000002#32 :: List.replicate 47 0#32) = [0x34070000#32] := by
  decide +kernel

-- R215, R217: rows of zeros at offset 4; the consumed cells are the even ones of rows 4 to 7 and the odd ones of rows 0 to 3
theorem test_tch_deinterleave :
    let ws := reply State.reset (0x35000004#32 :: List.replicate 232 0#32)
    ws.length = 347 ∧ ws.headD 0 = 0x3500015A#32 ∧ ws.getD 115 0 = 0x007F007F#32 ∧ ws.getD 231 0 = 0x7F007F00#32 ∧
    ws.getD 143 0 = 0x007F0000#32 := by decide +kernel

-- V-BM-1 with the candidate training sequence it names, V-BM-5
theorem test_burst_map (h : Config.tsc 0#3 = 0x0970897#26) :
    packBits (normalBurst hardware 0#114 true true 0#3) = [0#32, 0x00000009#32, 0x2E112F00#32, 0#32, 0#32] ∧
    reply State.reset [0x36000020#32, 0#32, 0#32, 0#32, 0#32] = [0x36070000#32] := by
  rw [normalBurst, hardware_tsc, h]
  decide +kernel

-- V-BM-4, with other symbols inside the training sequence
theorem test_burst_unmap :
    reply State.reset (0x37000000#32 :: packSoft (vecOf 148 fun i => if 60 ≤ i ∧ i ≤ 87 then 254#8 else 0#8))
      = 0x3700001E#32 :: (List.replicate 29 0#32 ++ [0x0000FEFE#32]) := by decide +kernel

/-- A speech frame of zeros is reordered to zeros, whatever `TCH_ORDER` is. -/
theorem tchReorder_zero : tchReorder hardware 0#260 = 0#260 := by
  apply BitVec.eq_of_getMsbD_eq
  intro i hi
  simp [tchReorder, getMsbD_bitsOf, hi]

/-- The coded block of V-TCH-1. -/
def codedSilence : List Word :=
  [0#32, 0#32, 0#32, 0#32, 0#32, 0x000003A8#32, 0x30000000#32, 0#32, 0#32, 0#32, 0#32, 0#32, 0#32, 0#32, 0#32]

-- V-TCH-1
theorem test_tch_speech_encode : packBits (tchEncode hardware 0#260) = codedSilence := by
  rw [tchEncode, tchReorder_zero]
  decide +kernel

-- R320, R321: the fold and the unfold of one reordered frame are inverse on clean symbols; T2: one flipped class-1A bit
-- breaks the parity
theorem test_tch_fold :
    let d : BitVec 260 := 0x123456789ABCDEF0FEDCBA98765432100F1E2D3C4B5A69788796A5B4C3D2E1F0A#260
    tchUnfold (tchFold hardware d) (image (tchCoded (tchFold hardware d) d)) = d ∧
    slice (tchFold hardware d) 91 3 = tchParity hardware d ∧
    tchParity hardware (d ^^^ BitVec.twoPow 260 227) ≠ tchParity hardware d := by decide +kernel

/-! ### L2 primitives -/

-- P1 step 5: buffers, schedule, records (burst bits apart, which hold the open training sequence)
theorem test_l2_data :
    let t := after (at3 xcch) (0x40030000#32 :: frameF)
    t.answers = [[0x40000000#32]] ∧ packBits (t.getCtx 3#8).enc.eC = codedF ∧
    (t.getCtx 3#8).enc.nextWT = ⟨157, 2#3⟩ ∧ (t.getCtx 3#8).enc.totalBursts = 4#32 ∧
    t.tx.map (·.take 2) = [[0x01030011#32, 0x4000006A#32], [0x01030011#32, 0x4000006B#32], [0x01030011#32, 0x4000006C#32],
      [0x01030011#32, 0x4000006D#32]] ∧
    t.up = [[0x15030001#32, 0x4000006B#32], [0x15030001#32, 0x4000006C#32], [0x15030001#32, 0x4000006D#32],
      [0x15030001#32, 0x4000009D#32]] := by decide +kernel

-- V-TCH-9, V-CH-19, and the FACCH queue of P4 step 7
theorem test_l2_data_queue :
    (ctx3After tch (0x40030000#32 :: frameF)).enc.facchQ = [unpackBits 184 frameF] ∧
    reply (at3 { tch with enc := { tch.enc with facchQ := List.replicate 8 0#184 } }) (0x40030000#32 :: frameF)
      = [0x40080000#32] ∧
    reply (at3 fcch) (0x40030000#32 :: frameF) = [0x40090000#32] := by decide +kernel

-- V-CH-15; R277: the schedule restarts
theorem test_l2_establish :
    let c := ctx3After { xcch with enc := { xcch.enc with active := false, totalBursts := 9#32 } } [0x41030001#32]
    c.dec.t3101 = ⟨true, 5000#32, 1000#32⟩ ∧ c.dec.t3109 = ⟨true, 5000#32, 19000#32⟩ ∧ c.dec.t3111.armed = false ∧
    c.enc.active = true ∧ c.enc.totalBursts = 0#32 ∧ c.enc.nextWT = ⟨106, 2#3⟩ := by decide +kernel

-- P4 steps 5 and 10: a TCH restarts its offset and flags
theorem test_l2_establish_tch :
    let c := ctx3After { tch with enc := { tch.enc with offset := .four, curFACCH := true, speechQ := [1#260] } } [0x41030000#32]
    c.enc.offset = .zero ∧ c.enc.curFACCH = false ∧ c.enc.speechQ = [] ∧ c.dec.t3101.armed = false := by decide +kernel

-- V-CH-16
theorem test_l2_release :
    let t := after (at3 xcch) [0x42030000#32]
    (t.getCtx 3#8).enc.active = false ∧ (t.getCtx 3#8).dec.accepting = false ∧
    (t.getCtx 3#8).dec.t3111 = ⟨true, 5000#32, 2000#32⟩ ∧
    (reply { t with nowMs := 7000#32 } [0x06030000#32])[1]? = some 0x15002011#32 := by decide +kernel

-- V-CH-17
theorem test_l2_error : (ctx3After xcch [0x43030000#32]).enc.active = false ∧
    (ctx3After xcch [0x43030000#32]).dec.accepting = true := by decide +kernel

/-! ### Receive -/

/-- The symbol words of the RACH burst of program P2, step 5. -/
def rachSym : List Word :=
  List.replicate 12 0#32 ++ [0x000000FE#32, 0xFE00FEFE#32, 0xFE00FEFE#32, 0x00000000#32, 0xFE0000FE#32, 0x000000FE#32,
    0x00FEFE00#32, 0x00FE0000#32, 0x00FEFEFE#32, 0xFE000000#32] ++ List.replicate 15 0#32

-- P2 steps 5 and 6, on timeslot 2
theorem test_rach_service :
    let t := after (at3 rach) ([0x50030000#32, 0x4000006A#32, 0xBA00044D#32] ++ rachSym)
    (t.getCtx 3#8).dec.rachQ.length = 1 ∧ reply t [0x51030000#32] = [0x51000001#32, 0x00045A03#32] ∧
    (after t [0x51030000#32]).up = [[0x14030003#32, 0x4000006A#32, 0xBA005A04#32, 0#32]] := by decide +kernel

-- P2 step 7; variant P2-b: another BSIC
theorem test_rach_service_invalid : reply (at3 rach) [0x51030000#32] = [0x51000001#32, 0#32] ∧
    (let t := after { at3 rach with csr := { Csr.reset hardware with bsic := 6#32 } }
        ([0x50030000#32, 0x4000006A#32, 0xBA00044D#32] ++ rachSym)
     reply t [0x51030000#32] = [0x51000001#32, 1#32] ∧
     ((after t [0x51030000#32]).getCtx 3#8).dec.fer = 0x013B13B1#32) := by decide +kernel

-- V-TA-1 to V-TA-6
theorem test_timing_advance : [1101#16, 1152#16, 1151#16, 128#16, 0xFF80#16, 0x8000#16, 16384#16, 32767#16].map timingAdvance
    = [4, 5, 4, 1, 0, 0, 63, 63] := by decide +kernel

-- P5 step 10 at NOW_MS = 5000: row 0 and the ring are written, no block ends
theorem test_rx_burst :
    let c := ctx3After xcch ([0x50030000#32, 0x400000D0#32, 0xBA000100#32] ++ List.replicate 37 0x01020304#32)
    c.dec.fer = 0#32 ∧ c.dec.phyNew = true ∧ c.dec.phyCnt = 1#2 ∧
    c.dec.rssi.toList = [0xBA00#16, 0#16, 0#16, 0#16] ∧ c.dec.te.toList = [0x0100#16, 0#16, 0#16, 0#16] ∧
    (c.dec.dI4[0]).toList.take 3 = [4#8, 1#8, 2#8] ∧ (c.dec.dI4[1]).toList.take 2 = [127#8, 127#8] := by decide +kernel

-- V-EXC-8: the wrong timeslot; R286: a burst off the mapping; V-CONV-9's code 255
theorem test_rx_burst_faults :
    reply (at3 xcch) ([0x50030000#32, 0x2000006A#32, 0#32] ++ List.replicate 37 0#32) = [0x50060000#32] ∧
    reply (at3 xcch) ([0x50030000#32, 0x40000064#32, 0#32] ++ List.replicate 37 0#32) = [0x50060000#32] ∧
    reply (at3 xcch) ([0x50030000#32, 0x4000006A#32, 0#32] ++ List.replicate 37 0xFF000000#32) = [0x50070000#32] := by
  decide +kernel

-- V-TCH-5, V-TCH-6, V-TCH-7
theorem test_facch_detect :
    facchMajority 4 (Vector.replicate 8 0#8) (Vector.replicate 8 127#8) = false ∧
    facchMajority 0 (Vector.replicate 8 127#8) (Vector.replicate 8 127#8) = false ∧
    facchMajority 0 (vecOf 8 fun r => if 4 ≤ r then 254#8 else 0#8) (vecOf 8 fun r => if r < 4 then 254#8 else 0#8) = true := by
  decide +kernel

-- V-SACCH-1, V-SACCH-2
theorem test_sacch_header :
    ({ Decoder.reset with dU := writeView 0#228 0 0x0F05#16 } : Decoder).sacchHeader.actualMSPower = 15#5 ∧
    ({ Decoder.reset with dU := writeView 0#228 0 0x0F05#16 } : Decoder).sacchHeader.actualMSTiming = 5#7 ∧
    ({ Decoder.reset with dU := writeView 0#228 0 0x0F7F#16, actualMSTiming := 9#7 } : Decoder).sacchHeader.actualMSTiming
      = 9#7 := by decide +kernel

/-! ### Transmit scheduling -/

-- V-CH-22
theorem test_idle_fill :
    let t := after (at3 xcch) [0x60030000#32]
    t.tx.map (·.take 2) = [[0x01030011#32, 0x4000006A#32], [0x01030011#32, 0x4000006B#32], [0x01030011#32, 0x4000006C#32],
      [0x01030011#32, 0x4000006D#32]] ∧ (t.getCtx 3#8).enc.nextWT = ⟨157, 2#3⟩ := by decide +kernel

-- P3 step 8: C0 = 0, eight bursts of MAP_B
theorem test_idle_fill_not_c0 :
    let t := after p3Configured [0x60010000#32]
    t.tx = [] ∧ t.up = [0xA000000D#32, 0xA000000E#32, 0xA000000F#32, 0xA000003F#32, 0xA0000040#32, 0xA0000041#32,
      0xA0000042#32, 0xA0000072#32].map fun w => [0x15010001#32, w] := by decide +kernel

-- V-BM-6 with the candidate extended training sequence, V-CH-21
theorem test_sch_send (h : Config.schTrain = 0xB962040F2D45761B#64) :
    packBits (schBurst hardware (convEncode (schUncoded hardware 0#25)))
      = [0x00000000#32, 0x002E5881#32, 0x03CB515D#32, 0x86C0074D#32, 0x55218000#32] ∧
    (after (at3 sch) [0x61030000#32, 0#32]).tx.map (·.take 2) = [[0x01030011#32, 0x4000006A#32]] ∧
    (after (at3 sch) [0x61030000#32, 0#32]).up = [[0x15030001#32, 0x4000006B#32]] := by
  rw [schBurst, hardware_schTrain, h]
  decide +kernel

-- V-CH-20
theorem test_fcch_send :
    (after (at3 fcch) [0x62030000#32]).tx = [[0x01030011#32, 0x4000006A#32, 0#32, 0#32, 0#32, 0#32, 0#32]] ∧
    (after (at3 fcch) [0x62030000#32]).up = [[0x15030001#32, 0x4000006B#32]] := by decide +kernel

-- P4 step 9: FACCH steals the slot
theorem test_tch_send_slot :
    let t := after { at3 { tch with enc := { tch.enc with facchQ := [unpackBits 184 frameF], speechQ := [0#260] } } with
      csr := { Csr.reset hardware with maxSpeechLatency := 2#32 } } [0x63030000#32]
    let e := (t.getCtx 3#8).enc
    packBits e.eC = codedF ∧ e.facchQ = [] ∧ e.speechQ = [] ∧ e.prevFACCH = true ∧ e.curFACCH = true ∧ e.offset = .four ∧
    e.totalBursts = 4#32 ∧ e.nextWT = ⟨108, 2#3⟩ ∧ t.tx.length = 4 ∧ t.up.length = 4 := by decide +kernel

-- P4 step 11: the wait of R249 holds the slot
theorem test_tch_send_slot_holds :
    let c : Ctx := { tch with enc := { tch.enc with prevWT := ⟨101, 2#3⟩ } }
    (after (at3 c) [0x63030000#32]).held = some ⟨.tchSendSlot 3#8 0#16, ⟨100, 3#3⟩⟩ ∧
    (after (at3 c) [0x63030000#32]).answers = [] := by decide +kernel

-- V-TCH-8
theorem test_tch_speech_push :
    let c : Ctx := { tch with enc := { tch.enc with speechQ := 1#260 :: List.replicate 15 2#260 } }
    (ctx3After c (0x64030000#32 :: List.replicate 9 0#32)).enc.speechQ = List.replicate 15 2#260 ++ [0#260] ∧
    reply (at3 c) (0x64030000#32 :: List.replicate 9 0#32) = [0x64000000#32] := by decide +kernel

-- V-TDMA-17
theorem test_resync :
    let c := ctx3After { xcch with enc := { xcch.enc with nextWT := ⟨4, 2#3⟩, prevWT := ⟨0, 2#3⟩ } } [0x65030000#32]
    c.enc.nextWT = ⟨106, 2#3⟩ ∧ c.enc.prevWT = ⟨100, 2#3⟩ := by decide +kernel

-- V-TDMA-18, V-TDMA-19
theorem test_resync_window :
    (ctx3After { xcch with enc := { xcch.enc with nextWT := ⟨1426, 2#3⟩ } } [0x65030000#32]).enc.nextWT = ⟨1426, 2#3⟩ ∧
    (ctx3After { xcch with enc := { xcch.enc with nextWT := ⟨1427, 2#3⟩ } } [0x65030000#32]).enc.nextWT = ⟨106, 2#3⟩ := by
  decide +kernel

-- V-TDMA-20
theorem test_wait_to_send :
    let c : Ctx := { xcch with enc := { xcch.enc with prevWT := ⟨106, 2#3⟩ } }
    (after { at3 c with nowTime := ⟨105, 7#3⟩ } [0x66030000#32]).held.isSome = true ∧
    reply { at3 c with nowTime := ⟨106, 2#3⟩ } [0x66030000#32] = [0x66000000#32] := by decide +kernel

/-! ### Measurement -/

-- P5 steps 7 and 11
theorem test_phy_read :
    let c : Ctx := { xcch with dec := { xcch.dec with
      rssi := Vector.replicate 4 0xBA00#16, te := Vector.replicate 4 0x0100#16, phyNew := true } }
    reply (at3 c) [0x70030000#32] = [0x70000003#32, 0xFFFEE800#32, 0x00000400#32, 1#32] ∧
    reply (after (at3 c) [0x70030000#32]) [0x70030000#32] = [0x70000003#32, 0xFFFEE800#32, 0x00000400#32, 0#32] := by
  decide +kernel

-- V-PHY-2
theorem test_meas_floor :
    ({ Decoder.reset with rssi := vecOf 4 fun i => if i = 3 then 0xBB00#16 else 0xBA00#16 } : Decoder).meas = 0xBA400000#32 := by
  decide +kernel

-- V-FER-4, V-FER-6
theorem test_fer_good :
    (ctx3After { xcch with dec := { xcch.dec with fer := 41198488#32 } } [0x71030000#32]).dec.fer = 41000418#32 ∧
    (ctx3After { xcch with dec := { xcch.dec with fer := 0xFFFFFFFF#32 } } [0x71030000#32]).dec.fer = 4274318413#32 := by
  decide +kernel

-- V-FER-1, V-FER-7
theorem test_fer_bad : (ctx3After xcch [0x72030000#32]).dec.fer = 20648881#32 ∧
    (ctx3After { xcch with dec := { xcch.dec with fer := 0xFFFFFFFF#32 } } [0x72030000#32]).dec.fer = 4294967294#32 := by
  decide +kernel

/-! ### TDMA arithmetic -/

-- V-TDMA-1, V-TDMA-3, V-TDMA-5
theorem test_fn_add : reply State.reset [0x80000000#32, 0x60296FFF#32, 2#32] = [0x80000001#32, 0x60000001#32] ∧
    reply State.reset [0x80000000#32, 0#32, 0x80000000#32] = [0x80000001#32, 0x00091000#32] ∧
    reply State.reset [0x80000000#32, 0x00297000#32, 0#32] = [0x80070000#32] := by decide +kernel

-- V-TDMA-6, V-TDMA-8
theorem test_fn_delta : reply State.reset [0x81000000#32, 0#32, 0x00296FFF#32] = [0x81000001#32, 1#32] ∧
    reply State.reset [0x81000000#32, 0x0014B800#32, 0#32] = [0x81000001#32, 0xFFEB4800#32] := by decide +kernel

-- V-TDMA-9, V-TDMA-10
theorem test_time_cmp : reply State.reset [0x82000000#32, 0x40000005#32, 0xC0000005#32] = [0x82000001#32, 0xFFFFFFFF#32] ∧
    reply State.reset [0x82000000#32, 0#32, 0xE0296FFF#32] = [0x82000001#32, 1#32] := by decide +kernel

-- V-TDMA-12, V-TDMA-13, V-EXC: no RXMAP
theorem test_map_reverse : reply p3Configured [0x83010000#32, 0xA5#32] = [0x83000001#32, 4#32] ∧
    reply p3Configured [0x83010000#32, 100#32] = [0x83000001#32, 0xFFFFFFFF#32] ∧
    reply p3Configured [0x83010001#32, 100#32] = [0x83090000#32] := by decide +kernel

-- V-TDMA-14, V-TDMA-16
theorem test_map_roll : reply p3Configured [0x84010000#32, 0x00296FFF#32, 4#32] = [0x84000001#32, 0x3F#32] ∧
    reply (at3 xcch) [0x84030000#32, 55#32, 0#32] = [0x84000001#32, 55#32] := by decide +kernel

/-! ### Illegal opcodes, blocked commands, the other agents -/

-- V-EXC-1, V-EXC-11, V-EXC-6
theorem test_illegal : (after State.reset [0x07000000#32]).csr.fault = 0x80000107#32 ∧
    (after State.reset [0x44C80000#32]).csr.fault = 0x80C80244#32 ∧
    (after State.reset (0x40030000#32 :: frameF)).csr.fault = 0x80030440#32 ∧
    reply (faulted State.reset) [0x44030000#32] = [0x44FF0000#32] := by decide +kernel

-- R43, R410, R82; log entry 3 for the clock that goes back
theorem test_agents :
    (match step { State.reset with sched := [.clock ⟨5, 1#3⟩ 7#32] } with
      | .next t => decide (t.nowTime = ⟨5, 1#3⟩ ∧ t.nowMs = 7#32)
      | _ => false) = true ∧
    (match step { State.reset with nowTime := ⟨5, 1#3⟩, sched := [.clock ⟨5, 0#3⟩ 7#32] } with
      | .fault .clockContract => true
      | _ => false) = true ∧
    (match step { faulted State.reset with sched := [.rst] } with
      | .next t => decide (t.csr.fault = 0#32)
      | _ => false) = true ∧
    (match step { State.reset with cmd := [1#32], sched := [.issue [2#32]] } with
      | .next t => decide (t.cmd = [1#32, 2#32])
      | _ => false) = true := by decide +kernel

-- R412: `RST` takes the words of a partly presented L2_DATA off the command port; the NOP before it stays, and the
-- next word is read as a command word
theorem test_rst_partial_command :
    let s : State := { at3 xcch with cmd := [0#32, 0x40030000#32, 0x01030129#32], sched := [.rst, .issue [0x0300000D#32]] }
    (match step s with
      | .next t => decide (t.cmd = [0#32]) &&
        (match step t with
          | .next u => decide (decode u.cmd = .instr (.nop 0#8 0#16) [0x0300000D#32])
          | _ => false)
      | _ => false) = true := by decide +kernel

-- the opcode-table word of CSR_READ runs as the first command after reset
theorem test_with_fetch_word :
    (match step (State.reset.withFetchWord 32 0x03000004) with
      | .next t => decide (t.answers = [[0x03000001#32, 0x00004A38#32]])
      | _ => false) = true := by decide +kernel

/-! ## Witnesses: for every statement with hypotheses, states and operands that meet them -/

/-- Context 3 of `at3 c` may run a command. -/
theorem at3_readyOn (c : Ctx) (h : c.cfg.running = true) : (at3 c).readyOn 3#8 := by
  refine ⟨?_, by decide, h⟩
  show (0#32).getLsbD 31 = false
  decide

theorem reset_ready : State.reset.ready := by decide

theorem at3_getCtx (c : Ctx) : (at3 c).getCtx 3#8 = c := rfl

theorem faulted_bit (s : State) : (faulted s).csr.fault.getLsbD 31 = true := by
  show (0x80000710#32).getLsbD 31 = true
  decide

/-- The outcome is a next state of which `p` holds. -/
def nextWith (r : Result) (p : State → Bool) : Bool :=
  match r with
  | .next t => p t
  | _ => false

theorem exists_next {r : Result} {p : State → Bool} (h : nextWith r p = true) : ∃ t, r = .next t ∧ p t = true := by
  cases r with
  | next t => exact ⟨t, rfl, h⟩
  | _ => cases h

/-- Lengths at the ends of their ranges, and a word that decodes. -/
theorem test_witness_DecodeEncodeAgree :
    (∃ i : Instr, i.wf = true ∧ i = .convEncode 0#8 512#16 (List.replicate 16 0#32)) ∧
    (∃ i : Instr, i.wf = true ∧ i = .chConfig 3#8 0#16 0#32 ⟨0xFF000000#32, 1#32, List.replicate 255 0#32⟩ ⟨0#32, 0#32, []⟩) ∧
    ∃ ws rest i, decode ws = .instr i rest ∧ ws = [0xFF000000#32 &&& 0#32, 9#32] ∧ rest = [9#32] :=
  ⟨⟨_, by decide +kernel, rfl⟩, ⟨_, by decide +kernel, rfl⟩, _, _, _, rfl, rfl, rfl⟩

theorem test_witness_StepRunsDecodedCommand :
    (∃ (s : State) (i : Instr) (rest : List Word), s.held = none ∧ decode s.cmd = .instr i rest ∧ s.sched = []) ∧
    ∃ (s : State) (i : Instr) (rest : List Word) (ts : List Turn), s.held = none ∧ decode s.cmd = .instr i rest ∧
      s.sched = .processor :: ts :=
  ⟨⟨{ State.reset with cmd := [0#32] }, .nop 0#8 0#16, [], rfl, by decide, rfl⟩,
    ⟨{ State.reset with cmd := [0#32], sched := [.processor] }, .nop 0#8 0#16, [], [], rfl, by decide, rfl⟩⟩

theorem test_witness_HeldCommandGoesOn :
    (∃ (s : State) (h : Held), s.held = some h ∧ s.sched = [] ∧ ∃ t, step s = .next t ∧ (t.held == none) = true) ∧
    (∃ (s : State) (h : Held), s.held = some h ∧ s.sched = [] ∧ ∃ t, step s = .next t ∧ (t.held == s.held) = true) ∧
    ∃ s : State, s.held = none ∧ s.sched = [] ∧ decode s.cmd = .incomplete :=
  ⟨⟨{ State.reset with held := some ⟨.nop 0#8 0#16, .zero⟩ }, _, rfl, rfl, exists_next (by decide +kernel)⟩,
    ⟨{ at3 { xcch with enc := { xcch.enc with prevWT := ⟨101, 2#3⟩ } } with
        held := some ⟨.waitToSend 3#8 0#16, .zero⟩ }, _, rfl, rfl, exists_next (by decide +kernel)⟩,
    ⟨State.reset, rfl, rfl, rfl⟩⟩

theorem test_witness_AgentsTakeTurns :
    (∃ (s : State) (t : Time) (ms : Word) (ts : List Turn), s.sched = .clock t ms :: ts ∧ t.fn = 1357823 ∧
      timeCmp hardware t s.nowTime = 1) ∧
    (∃ (s : State) (t : Time) (ms : Word) (ts : List Turn), s.sched = .clock t ms :: ts ∧ t.fn = 2715648) ∧
    (∃ (s : State) (t : Time) (ms : Word) (ts : List Turn), s.sched = .clock t ms :: ts ∧ timeCmp hardware t s.nowTime = -1) ∧
    (∃ (s : State) (ts : List Turn), s.sched = .rst :: ts) ∧
    (∃ (s : State) (ws : List Word) (ts : List Turn), s.sched = .issue ws :: ts) ∧
    (∃ ws : List Word, decode ws = .incomplete ∧ ws = [0x40030000#32, 0#32]) ∧
    (∃ (ws rest : List Word) (i : Instr), decode ws = .instr i rest ∧ rest = [0x40030000#32]) ∧
    (∃ (ws rest : List Word) (w : Word), decode ws = .illegalOpcode w rest) ∧
    ∃ (ws rest : List Word) (w : Word), decode ws = .illegalPrimitive w rest :=
  ⟨⟨{ State.reset with sched := [.clock ⟨1357823, 0#3⟩ 0#32] }, _, _, _, rfl, rfl, by decide +kernel⟩,
    ⟨{ State.reset with sched := [.clock ⟨2715648, 0#3⟩ 0#32] }, _, _, _, rfl, rfl⟩,
    ⟨{ State.reset with sched := [.clock ⟨1357824, 0#3⟩ 0#32] }, _, _, _, rfl, by decide +kernel⟩,
    ⟨{ State.reset with sched := [.rst] }, _, rfl⟩, ⟨{ State.reset with sched := [.issue [0#32]] }, _, _, rfl⟩,
    ⟨_, by decide, rfl⟩, ⟨[0#32, 0x40030000#32], _, .nop 0#8 0#16, by decide, rfl⟩,
    ⟨[0x07000000#32], [], 0x07000000#32, by decide⟩, ⟨[0x44000000#32], [], 0x44000000#32, by decide⟩⟩

theorem test_witness_ChecksRunInOrder :
    (∃ (i : Instr) (s : State), s.ready ∧ i.opcode ≠ .reset ∧ i.verdict s = some 0x03#8 ∧ i = .chStatus 64#8 1#16) ∧
    (∃ (i : Instr) (s : State), s.ready ∧ i.opcode ≠ .reset ∧ i.verdict s = some 0x08#8) ∧
    ∃ (i : Instr) (s : State), s.ready ∧ i.opcode ≠ .reset ∧ i.verdict s = none ∧ i = .chStatus 63#8 0#16 :=
  ⟨⟨_, State.reset, reset_ready, by decide, by decide +kernel, rfl⟩,
    ⟨.l2Data 3#8 0#16 frameF, at3 { tch with enc := { tch.enc with facchQ := List.replicate 8 0#184 } }, (at3_readyOn _ rfl).1,
      by decide, by decide +kernel⟩,
    ⟨_, State.reset, reset_ready, by decide, by decide +kernel, rfl⟩⟩

theorem test_witness_FaultsNeverNest : ∀ w ∈ [0x00000000#32, 0x01000000#32], ∃ s : State,
    s.csr.fault.getLsbD 31 = true ∧ s.cmd = [w] ∧ ∃ t, step s = .next t ∧ (t.answers.length == 1) = true := by
  intro w h
  refine ⟨{ faulted State.reset with cmd := [w] }, faulted_bit State.reset, rfl, exists_next ?_⟩
  rcases List.mem_pair.1 h with rfl | rfl <;> decide +kernel

/-- The words of each clause, the reset state with `FAULT` set around them. -/
theorem test_witness_FaultStateBlocks :
    ∃ s : List Word → State, (∀ ws, (s ws).csr.fault.getLsbD 31 = true ∧ (s ws).held = none ∧ (s ws).sched = [] ∧ (s ws).cmd = ws) ∧
    (∃ ws rest i, decode ws = .instr i rest ∧ i.opcode ≠ .reset ∧ i.opcode ≠ .csrRead) ∧
    (∃ ws w rest, decode ws = .illegalOpcode w rest) ∧ (∃ ws w rest, decode ws = .illegalPrimitive w rest) ∧
    decode [0x0300000D#32] = .instr (.csrRead 0#8 0xD#16) [] ∧ decode [0x03010000#32] = .instr (.csrRead 1#8 0#16) [] ∧
    decode [0x0300000E#32] = .instr (.csrRead 0#8 0xE#16) [] ∧ decode [0x01FF0001#32] = .instr (.reset 255#8 1#16) [] :=
  ⟨fun ws => { faulted State.reset with cmd := ws }, fun _ => ⟨faulted_bit State.reset, rfl, rfl, rfl⟩,
    ⟨[0#32], [], .nop 0#8 0#16, by decide, by decide, by decide⟩, ⟨[0x07000000#32], 0x07000000#32, [], by decide⟩,
    ⟨[0x44000000#32], 0x44000000#32, [], by decide⟩, by decide, by decide, by decide, by decide⟩

theorem test_witness_UnassignedOpcodesFault :
    ∃ s : Word → State, (∀ w, (s w).held = none ∧ (s w).sched = [] ∧ (s w).cmd = [w]) ∧
    (∀ w ∈ [0x44C80000#32, 0x4F000000#32], 0x44 ≤ (w.extractLsb' 24 8).toNat ∧ (w.extractLsb' 24 8).toNat ≤ 0x4F) ∧
    ∀ w ∈ [0x07000000#32, 0x52000000#32, 0x85000000#32, 0xFFFFFFFF#32], Opcode.ofCode (w.extractLsb' 24 8) = none ∧
      ¬ (0x44 ≤ (w.extractLsb' 24 8).toNat ∧ (w.extractLsb' 24 8).toNat ≤ 0x4F) :=
  ⟨fun w => { State.reset with cmd := [w] }, fun _ => ⟨rfl, rfl, rfl⟩,
    fun w h => by rcases List.mem_pair.1 h with rfl | rfl <;> decide,
    fun w h => by
      simp only [List.mem_cons, List.not_mem_nil, or_false] at h
      rcases h with rfl | rfl | rfl | rfl <;> decide⟩

theorem test_witness_OtherContextsUntouched :
    ((Instr.l2Release 3#8 0#16).opcode ≠ .reset ∧ (∃ t, exec (.l2Release 3#8 0#16) (at3 xcch) = .next t ∧ (t.answers.length == 1) = true) ∧
      4#8 ≠ (Instr.l2Release 3#8 0#16).ch) ∧
    (Instr.nop 0#8 0#16).opcode ≠ .reset ∧ (∃ t, exec (.nop 0#8 0#16) (at3 xcch) = .next t ∧ (t.answers.length == 1) = true) ∧
      (Instr.nop 0#8 0#16).opcode.isGlobal = true :=
  ⟨⟨by decide, exists_next (by decide +kernel), by decide⟩, by decide, exists_next (by decide +kernel), rfl⟩

/-- A command without listed flags, and the two commands whose effect on `phyNew` has a direction. -/
theorem test_witness_FlagsWrittenOnlyWhereListed :
    (∃ i : Instr, (∃ t, exec i (at3 xcch) = .next t ∧ (t.answers.length == 1) = true) ∧ i.opcode = .ferGood ∧ i.opcode ≠ .reset ∧
      i.opcode ≠ .chConfig ∧ i.opcode ≠ .chDeconfig ∧ i.opcode ∉ [.l2Establish, .l2Release, .l2Error] ∧
      i.opcode ∉ [.l2Establish, .l2Release] ∧ i.opcode ∉ [.l2Establish, .rxBurst, .phyRead] ∧
      i.opcode ∉ [.l2Establish, .tchSendSlot]) ∧
    (∃ (i : Instr) (s : State), (∃ t, exec i s = .next t ∧ (t.getCtx 3#8).dec.phyNew = true) ∧ i.opcode = .rxBurst ∧
      (s.getCtx 3#8).dec.phyNew = true) ∧
    ∃ (i : Instr) (s : State), (∃ t, exec i s = .next t ∧ (t.getCtx 3#8).dec.phyNew = true) ∧ i.opcode = .phyRead :=
  ⟨⟨.ferGood 3#8 0#16, exists_next (by decide +kernel), rfl, by decide, by decide, by decide, by decide, by decide, by decide,
      by decide⟩,
    ⟨.rxBurst 3#8 0#16 0x4000006A#32 0#32 (List.replicate 37 0#32), at3 { xcch with dec := { xcch.dec with phyNew := true } },
      exists_next (p := fun t => (t.getCtx 3#8).dec.phyNew) (by decide +kernel), rfl, rfl⟩,
    ⟨.phyRead 3#8 1#16, at3 { xcch with dec := { xcch.dec with phyNew := true } },
      exists_next (p := fun t => (t.getCtx 3#8).dec.phyNew) (by decide +kernel), rfl⟩⟩

theorem test_witness_RegistersAndPortsWrittenOnlyWhereListed :
    ∃ i : Instr, (∃ t, exec i (at3 xcch) = .next t ∧ (t.answers.length == 1) = true) ∧ i.opcode = .l2Release ∧
      i.opcode ∉ [.reset, .csrWrite] ∧ i.opcode ≠ .rxBurst ∧
      i.opcode ∉ [.l2Data, .idleFill, .schSend, .fcchSend, .tchSendSlot] ∧
      i.opcode ∉ [.l2Data, .idleFill, .schSend, .fcchSend, .tchSendSlot, .rxBurst, .rachService] ∧
      ∃ t, exec (.l2Release 3#8 1#16) (at3 xcch) = .next t ∧ (t.csr.fault == 0x80030742#32) = true :=
  ⟨.l2Release 3#8 0#16, exists_next (by decide +kernel), rfl, by decide, by decide, by decide, by decide,
    exists_next (p := fun t => t.csr.fault == 0x80030742#32) (by decide +kernel)⟩

/-- A property of the reset context and of `c` holds of every context of `at3 c`, whatever is on the command port. -/
theorem everyCtx_at3 (c : Ctx) (p : Ctx → Bool) (h : p c = true) (h0 : p .reset = true) :
    State.everyCtx { at3 c with cmd := [0x42030000#32] } p = true := by
  refine List.all_eq_true.2 fun x hx => ?_
  rcases List.mem_or_eq_of_mem_set hx with hx | rfl
  · rw [List.eq_of_mem_replicate hx]; exact h0
  · exact h

theorem reset_legal : Ctx.legal .reset = true := by
  rw [Ctx.legal, if_neg (by decide)]
  exact beq_self_eq_true _

/-- A state with an open XCCH context on its schedule meets every invariant, and steps. -/
theorem test_witness_StepKeeps :
    let s : State := { at3 xcch with cmd := [0x42030000#32] }
    s.csr.legal = true ∧ s.ctx.length = 64 ∧ s.everyCtx Ctx.legal = true ∧ s.everyCtx Ctx.tailsZero = true ∧ s.everyCtx Ctx.softLegal = true ∧
    s.everyCtx (fun c => c.legal && c.onSchedule) = true ∧ s.timesLegal = true ∧ ∃ t, step s = .next t ∧ (t.answers.length == 1) = true :=
  ⟨by decide +kernel, rfl, everyCtx_at3 _ _ (by decide +kernel) reset_legal, everyCtx_at3 _ _ (by decide +kernel) (by decide +kernel),
    everyCtx_at3 _ _ (by decide +kernel) (by decide +kernel),
    everyCtx_at3 _ _ (by decide +kernel) (by rw [reset_legal]; rfl),
    by rw [State.timesLegal, everyCtx_at3 _ _ (by decide +kernel) (by decide +kernel)]; decide +kernel,
    exists_next (by decide +kernel)⟩

theorem test_witness_NopCompletes : State.reset.ready ∧ (∃ ch : BitVec 8, ch ≠ 0#8) ∧ ∃ arg : BitVec 16, arg ≠ 0#16 :=
  ⟨reset_ready, ⟨255#8, by decide⟩, ⟨0x8000#16, by decide⟩⟩

/-- The ends of the ranges that R270 names. -/
theorem test_witness_CsrWriteWritesRegister : State.reset.ready ∧
    (∃ v w : Word, 1 ≤ v.toNat ∧ v.toNat < 2 ^ 31 ∧ v.toNat = 1 ∧ w.toNat = 2 ^ 31 - 1) ∧
    (∃ v : Word, v.toNat % 256 = 16) ∧ (∃ v : Word, v.toNat = 2 ^ 31) ∧ (∃ v : Word, v.toNat % 256 = 17) ∧
    (∃ a b : BitVec 16, a.toNat = 1 ∧ b.toNat = 7) ∧ ∃ ch : BitVec 8, ch ≠ 0#8 :=
  ⟨reset_ready, ⟨1#32, 0x7FFFFFFF#32, by decide⟩, ⟨0xFFFFFF10#32, by decide⟩, ⟨0x80000000#32, by decide⟩, ⟨0x11#32, by decide⟩,
    ⟨1#16, 7#16, by decide⟩, ⟨1#8, by decide⟩⟩

theorem test_witness_CsrReadReadsRegister : (∃ arg : BitVec 16, 0xD < arg.toNat ∧ arg = 0xE#16) ∧ ∃ ch : BitVec 8, ch ≠ 0#8 :=
  ⟨⟨_, by decide, rfl⟩, ⟨1#8, by decide⟩⟩

/-- The mapping of an FCCH on all of its 255 frames, the most a mapping may have. -/
def map255 : Mapping := ⟨0x01#8, true, 312#32, (List.range 255).map (BitVec.ofNat 32), 0#8⟩

theorem map255_increases : map255.forward.Pairwise (fun a b => a.toNat < b.toNat) := by
  refine List.pairwise_map.2 (List.pairwise_lt_range.imp_of_mem fun ha hb h => ?_)
  rw [List.mem_range] at ha hb
  simp only [BitVec.toNat_ofNat]
  omega

theorem map255_below : ∀ w ∈ map255.forward, w.toNat < map255.p.toNat := by
  intro w hw
  obtain ⟨n, hn, rfl⟩ := List.mem_map.1 hw
  rw [List.mem_range] at hn
  simp only [BitVec.toNat_ofNat, map255]
  omega

/-- The smallest and the largest legal `m`: an SCH on 2 frames, an FCCH on 255; and a TCH with both mappings. -/
theorem test_witness_ChConfigInstallsChannel :
    State.reset.ready ∧ (63#8).toNat < 64 ∧ (State.reset.getCtx 63#8).cfg.running = false ∧
    (∀ (k : Kind) (tx rx : Option Mapping), (k, tx, rx) ∈
        [(Kind.sch, some ⟨0x01#8, true, 51#32, [0#32, 50#32], 0#8⟩, none), (Kind.fcch, some map255, none),
          (Kind.tch, some { mapT true with allowed := 0xFF#8 }, some { mapT false with allowed := 0xFF#8 })] →
      (∀ (down : Bool) (M : Mapping), (if down then tx else rx) = some M →
        2 ≤ M.forward.length ∧ M.forward.length ≤ 255 ∧ 1 ≤ M.p.toNat ∧ M.p.toNat ∣ 2715648 ∧
        M.forward.Pairwise (fun a b => a.toNat < b.toNat) ∧ (∀ w ∈ M.forward, w.toNat < M.p.toNat) ∧
        (k = .xcch ∨ k = .sacch → 4 ∣ M.forward.length) ∧ (k = .tch → 8 ∣ M.forward.length) ∧
        M.downlink = down ∧ M.allowed.getLsbD (0#3).toNat = true) ∧
      (k = .xcch ∧ tx.isSome ∨ k = .sacch ∧ tx.isSome ∨ k = .rach ∧ tx = none ∧ rx.isSome ∨
        k = .sch ∧ tx.isSome ∧ rx = none ∨ k = .fcch ∧ tx.isSome ∧ rx = none ∨ k = .tch ∧ tx.isSome ∧ rx.isSome)) := by
  refine ⟨reset_ready, by decide, rfl, ?_⟩
  intro k tx rx h
  simp only [List.mem_cons, Prod.mk.injEq, List.not_mem_nil, or_false] at h
  rcases h with ⟨rfl, rfl, rfl⟩ | ⟨rfl, rfl, rfl⟩ | ⟨rfl, rfl, rfl⟩
  · refine ⟨fun down M h => ?_, by decide⟩
    cases down <;> simp at h
    subst h
    exact ⟨by decide, by decide, by decide, by decide, by simp, by simp, by decide, by decide, rfl, by decide⟩
  · refine ⟨fun down M h => ?_, by decide⟩
    cases down <;> simp at h
    subst h
    exact ⟨by decide +kernel, by decide +kernel, by decide, by decide, map255_increases, map255_below, by decide, by decide, rfl,
      by decide⟩
  · refine ⟨fun down M h => ?_, by decide⟩
    cases down <;> simp at h <;> subst h <;>
      exact ⟨by decide, by decide, by decide, by decide, by simp [mapT], by simp [mapT], by decide, by decide, rfl, by decide⟩

/-- A downlink mapping on timeslot 2 with this period and these offsets. -/
def beacon (p : Word) (forward : List Word) : Mapping := ⟨0x04#8, true, p, forward, 0#8⟩

/-- Mappings for timeslot 2 of which each breaks one condition of R244, just outside its range: `m` 1, `p` 0, `p` no divisor,
equal offsets, an offset equal to `p`, 6 frames for an XCCH, 4 for a TCH, the direction bit, the timeslot bit. -/
def broken : List Mapping :=
  [beacon 51#32 [0#32], beacon 0#32 [0#32, 1#32], beacon 50#32 [0#32, 1#32], beacon 51#32 [1#32, 1#32],
    beacon 51#32 [0#32, 51#32], beacon 51#32 [0#32, 1#32, 2#32, 3#32, 4#32, 5#32], mapA true, mapA false,
    { mapA true with allowed := 0xFB#8 }]

/-- The configurations that `CH_CONFIG` refuses: each mapping of `broken`; a kind with a mapping it must not have or without one it
must have; the codes 0, 7 and 15; a running context. -/
theorem test_witness_ChConfigFaults :
    let meets (k : Kind) (M : Mapping) : Prop :=
      2 ≤ M.forward.length ∧ M.forward.length ≤ 255 ∧ 1 ≤ M.p.toNat ∧ M.p.toNat ∣ 2715648 ∧
      M.forward.Pairwise (fun a b => a.toNat < b.toNat) ∧ (∀ w ∈ M.forward, w.toNat < M.p.toNat) ∧
      (k = .xcch ∨ k = .sacch → 4 ∣ M.forward.length) ∧ (k = .tch → 8 ∣ M.forward.length) ∧
      M.downlink = true ∧ M.allowed.getLsbD (2#3).toNat = true
    let present (k : Kind) (tx rx : Option Mapping) : Prop :=
      k = .xcch ∧ tx.isSome ∨ k = .sacch ∧ tx.isSome ∨ k = .rach ∧ tx = none ∧ rx.isSome ∨
      k = .sch ∧ tx.isSome ∧ rx = none ∨ k = .fcch ∧ tx.isSome ∧ rx = none ∨ k = .tch ∧ tx.isSome ∧ rx.isSome
    (∀ M ∈ broken, 1 ≤ M.forward.length ∧ M.forward.length ≤ 255) ∧
    (∀ n : Fin 9, ∃ M, broken[n]? = some M ∧ ¬ meets (if n = 5 then .xcch else if n = 6 then .tch else .sch) M) ∧
    (¬ present .xcch none (some (mapA false)) ∧ ¬ present .rach (some (mapA true)) (some (mapA false)) ∧
      ¬ present .rach none none ∧ ¬ present .sch (some (mapA true)) (some (mapA false)) ∧ ¬ present .tch (some (mapT true)) none) ∧
    (∀ code ∈ [0#4, 7#4, 15#4], code = 0#4 ∨ 7 ≤ code.toNat) ∧
    (at3 xcch).ready ∧ ((at3 xcch).getCtx 3#8).cfg.running = true := by
  refine ⟨by decide, fun n => ?_, by simp, by decide, (at3_readyOn _ rfl).1, rfl⟩
  fin_cases n <;> refine ⟨_, rfl, ?_⟩ <;> rintro ⟨hm, -, hp, hdiv, hinc, hlt, h4, h8, hdown, htn⟩
  · exact absurd hm (by decide)
  · exact absurd hp (by decide)
  · exact absurd hdiv (by decide)
  · simp [beacon] at hinc
  · simp [beacon] at hlt
  · exact absurd (h4 (.inl rfl)) (by decide)
  · exact absurd (h8 rfl) (by decide)
  · exact absurd hdown (by decide)
  · exact absurd htn (by decide)

/-- The first and the last context, and the first number that names none. -/
theorem test_witness_ChDeconfigTearsDown : State.reset.ready ∧ (0#8).toNat < 64 ∧ (63#8).toNat < 64 ∧ 64 ≤ (64#8).toNat :=
  ⟨reset_ready, by decide, by decide, by decide⟩

theorem test_witness_ChStatusReadsContext :
    (at3 xcch).ready ∧ (3#8).toNat < 64 ∧ (∃ M, ((at3 xcch).getCtx 3#8).cfg.txmap = some M) ∧
    (((at3 rach).getCtx 3#8).cfg.txmap = none ∧ ∃ M, ((at3 rach).getCtx 3#8).cfg.rxmap = some M) ∧
    ((at3 rach).getCtx 63#8).cfg.txmap = none ∧ ((at3 rach).getCtx 63#8).cfg.rxmap = none :=
  ⟨(at3_readyOn _ rfl).1, by decide, ⟨_, rfl⟩, ⟨rfl, ⟨_, rfl⟩⟩, rfl, rfl⟩

theorem test_witness_Lsb8msbReversesOctets : State.reset.ready ∧ (1 ≤ (1#16).toNat ∧ (1024#16).toNat ≤ 1024) ∧
    (0#16).toNat = 0 ∧ 1024 < (1025#16).toNat := ⟨reset_ready, by decide, by decide, by decide⟩

theorem test_witness_ParityCommandsAnswer : State.reset.ready ∧ (63#16).toNat < 64 := ⟨reset_ready, by decide⟩

theorem test_witness_BlockCodingCommandsAnswer : State.reset.ready := reset_ready

theorem test_witness_ConvEncodeAnswers : State.reset.ready ∧ 5 ≤ (5#16).toNat ∧ (512#16).toNat ≤ 512 := ⟨reset_ready, by decide, by decide⟩

theorem test_witness_DecodingCommandsAnswer : State.reset.ready ∧
    (5 ≤ (5#16).toNat ∧ (5#16).toNat ≤ 512 ∧ softPayloadLegal (2 * (5#16).toNat) (List.replicate 3 0xFEFE0000#32) = true) ∧
    (5 ≤ (512#16).toNat ∧ (512#16).toNat ≤ 512 ∧ softPayloadLegal (2 * (512#16).toNat) (List.replicate 256 0x7F7F7F7F#32) = true) ∧
    softPayloadLegal 456 (List.replicate 114 0x7F7F7F7F#32) = true :=
  ⟨reset_ready, by decide +kernel, by decide +kernel, by decide +kernel⟩

theorem test_witness_XcchInterleaveCommandsAnswer : State.reset.ready ∧
    (Instr.xcchDeinterleave 0#8 0#16 (List.replicate 116 0x7F7F7F7F#32)).payloadLegal = true := ⟨reset_ready, by decide +kernel⟩

theorem test_witness_TchInterleaveCommandsAnswer : State.reset.ready ∧ (0#16).toNat = 0 ∧ (4#16).toNat = 4 ∧
    (Instr.tchDeinterleave 0#8 4#16 (List.replicate 232 0x7F7F7F7F#32)).payloadLegal = true := ⟨reset_ready, rfl, rfl, by decide +kernel⟩

theorem test_witness_BurstCommandsAnswer : State.reset.ready ∧ (31#16).toNat < 32 ∧
    softPayloadLegal 148 (List.replicate 37 0x7F7F7F7F#32) = true := ⟨reset_ready, by decide, by decide +kernel⟩

theorem test_witness_TchSpeechCommandsAnswer : State.reset.ready ∧
    softPayloadLegal 456 (List.replicate 114 0x7F7F7F7F#32) = true := ⟨reset_ready, by decide +kernel⟩

/-- Both kinds, at the moment the wait ends. -/
theorem test_witness_L2DataSendsFourBursts : ∀ c ∈ [xcch, sacch], ∃ s : State, s.readyOn 3#8 ∧
    ((s.getCtx 3#8).cfg.kind = .xcch ∨ (s.getCtx 3#8).cfg.kind = .sacch) ∧ (s.getCtx 3#8).enc.active = true ∧
    timeCmp hardware s.nowTime ((s.getCtx 3#8).resync hardware s.t0).enc.prevWT = 0 := by
  intro c hc
  refine ⟨{ at3 c with nowTime := ⟨100, 2#3⟩ }, ?_⟩
  rcases List.mem_pair.1 hc with rfl | rfl <;> exact ⟨at3_readyOn _ rfl, by decide, rfl, by decide +kernel⟩

/-- Queues one short of full, full, and the closed encoder. -/
theorem test_witness_FramesAreQueued : ∃ c : Bool → Nat → Nat → Ctx,
    (∀ a n m, (at3 (c a n m)).readyOn 3#8 ∧ ((at3 (c a n m)).getCtx 3#8).cfg.kind = .tch ∧ (c a n m).enc.active = a ∧
      (c a n m).enc.facchQ.length = n ∧ (c a n m).enc.speechQ.length = m) ∧
    (c true 7 15).enc.facchQ.length < 8 ∧ (c true 8 16).enc.facchQ.length = 8 ∧ (c true 7 15).enc.speechQ.length ≠ 16 ∧
    (c true 8 16).enc.speechQ.length = 16 ∧ (c false 0 0).enc.active = false :=
  ⟨fun a n m => { tch with enc := { tch.enc with
      active := a, facchQ := List.replicate n 0#184, speechQ := List.replicate m 0#260 } },
    fun _ _ _ => ⟨at3_readyOn _ rfl, rfl, rfl, by simp, by simp⟩, by decide, by decide, by decide, by decide, rfl⟩

theorem test_witness_L2EstablishOpens : (∀ c ∈ [xcch, sacch, rach, sch, fcch, tch], (at3 c).readyOn 3#8) ∧ (0#16).toNat < 2 ∧
    (1#16).toNat < 2 := by
  refine ⟨fun c hc => at3_readyOn c ?_, by decide, by decide⟩
  simp only [List.mem_cons, List.not_mem_nil, or_false] at hc
  rcases hc with rfl | rfl | rfl | rfl | rfl | rfl <;> rfl

theorem test_witness_L2ReleaseAndErrorClose : ∀ c ∈ [xcch, sacch, rach, sch, fcch, tch], (at3 c).readyOn 3#8 := by
  intro c hc
  refine at3_readyOn c ?_
  simp only [List.mem_cons, List.not_mem_nil, or_false] at hc
  rcases hc with rfl | rfl | rfl | rfl | rfl | rfl <;> rfl

/-- The closed decoder, the queue with one place left, the full queue; a burst on the mapping, one on the next timeslot, and one
on the first frame after the mapped ones. -/
theorem test_witness_RxBurstIgnoredOrQueued : ∃ c : Bool → Nat → Ctx,
    (∀ a n, (at3 (c a n)).readyOn 3#8 ∧ ((at3 (c a n)).getCtx 3#8).hasDecoder = true ∧ (c a n).cfg.kind = .rach ∧
      ((at3 (c a n)).getCtx 3#8).cfg.rxmap = some (mapA false) ∧ (c a n).cfg.tn = 2#3) ∧
    (∀ t ∈ [0x4000006A#32, 0x6000006A#32, 0x4000006E#32], legalTime hardware t = true) ∧
    softPayloadLegal 148 (List.replicate 37 0#32) = true ∧
    ((0x4000006A#32).extractLsb' 29 3 = 2#3 ∧
      ∃ w ∈ (mapA false).forward, w.toNat = ((0x4000006A#32).extractLsb' 0 22).toNat % (mapA false).p.toNat) ∧
    (0x6000006A#32).extractLsb' 29 3 ≠ 2#3 ∧
    (¬ ∃ w ∈ (mapA false).forward, w.toNat = ((0x4000006E#32).extractLsb' 0 22).toNat % (mapA false).p.toNat) ∧
    (c false 0).dec.active 5000#32 = false ∧ (c true 15).dec.active 5000#32 = true ∧ (c true 15).dec.rachQ.length < 16 ∧
    (c true 16).dec.active 5000#32 = true ∧ 16 ≤ (c true 16).dec.rachQ.length := by
  refine ⟨fun a n => { rach with dec := { rach.dec with
      accepting := a, rachQ := List.replicate n ⟨.zero, 0#16, 0#16, Vector.replicate 148 0#8⟩ } },
    fun _ _ => ⟨at3_readyOn _ rfl, rfl, rfl, rfl, rfl⟩, fun t ht => ?_, by decide +kernel,
    ⟨by decide, 4#32, by decide, by decide⟩, by decide, fun ⟨w, hw, h⟩ => ?_, by decide, by decide, by decide, by decide,
    by decide⟩
  · simp only [List.mem_cons, List.not_mem_nil, or_false] at ht
    rcases ht with rfl | rfl | rfl <;> decide +kernel
  · simp only [mapA, List.mem_cons, List.not_mem_nil, or_false] at hw
    rcases hw with rfl | rfl | rfl | rfl <;> exact absurd h (by decide)

/-- XCCH and SACCH, at the first and at the last burst of a block. -/
theorem test_witness_RxBurstDecodesControlBlock : ∀ c ∈ [xcch, sacch], ∀ t ∈ [0x4000006A#32, 0x4000006D#32],
    (at3 c).readyOn 3#8 ∧ legalTime hardware t = true ∧ softPayloadLegal 148 (List.replicate 37 0#32) = true ∧
    ((at3 c).getCtx 3#8).cfg.rxmap = some (mapA false) ∧
    (((at3 c).getCtx 3#8).cfg.kind = .xcch ∨ ((at3 c).getCtx 3#8).cfg.kind = .sacch) ∧
    demuxFails ((at3 c).getCtx 3#8) (timeOf t) = false ∧ ((at3 c).getCtx 3#8).dec.active (at3 c).nowMs = true := by
  intro c hc t ht
  rcases List.mem_pair.1 hc with rfl | rfl <;> rcases List.mem_pair.1 ht with rfl | rfl <;>
    exact ⟨at3_readyOn _ rfl, by decide +kernel, by decide +kernel, rfl, by decide, by decide +kernel, by decide⟩

/-- TCH, at a burst inside a block and at the two that end one. -/
theorem test_witness_RxBurstDecodesTrafficBlock : ∀ t ∈ [0x40000068#32, 0x4000006B#32, 0x4000006F#32],
    (at3 tch).readyOn 3#8 ∧ legalTime hardware t = true ∧ softPayloadLegal 148 (List.replicate 37 0#32) = true ∧
    (∃ M, ((at3 tch).getCtx 3#8).cfg.rxmap = some M) ∧ ((at3 tch).getCtx 3#8).cfg.kind = .tch ∧
    demuxFails ((at3 tch).getCtx 3#8) (timeOf t) = false ∧ ((at3 tch).getCtx 3#8).dec.active (at3 tch).nowMs = true := by
  intro t ht
  simp only [List.mem_cons, List.not_mem_nil, or_false] at ht
  rcases ht with rfl | rfl | rfl <;>
    exact ⟨at3_readyOn _ rfl, by decide +kernel, by decide +kernel, ⟨_, rfl⟩, rfl, by decide +kernel, by decide⟩

theorem test_witness_RachServiceServesOldestBurst :
    ((at3 rach).readyOn 3#8 ∧ ((at3 rach).getCtx 3#8).cfg.kind = .rach ∧ ((at3 rach).getCtx 3#8).dec.rachQ = []) ∧
    ∃ c b q, (at3 c).readyOn 3#8 ∧ ((at3 c).getCtx 3#8).cfg.kind = .rach ∧ ((at3 c).getCtx 3#8).dec.rachQ = b :: q :=
  ⟨⟨at3_readyOn _ rfl, rfl, rfl⟩,
    ⟨{ rach with dec := { rach.dec with rachQ := [⟨.zero, 0#16, 0#16, Vector.replicate 148 0#8⟩] } }, _, _,
      at3_readyOn _ rfl, rfl, rfl⟩⟩

theorem test_witness_IdleFillRollsOnePeriod : ∀ c ∈ [xcch, sacch, tch], (at3 c).readyOn 3#8 ∧
    (∃ M, ((at3 c).getCtx 3#8).cfg.txmap = some M) ∧ (((at3 c).getCtx 3#8).cfg.kind = .xcch ∨
      ((at3 c).getCtx 3#8).cfg.kind = .sacch ∨ ((at3 c).getCtx 3#8).cfg.kind = .tch) := by
  intro c hc
  simp only [List.mem_cons, List.not_mem_nil, or_false] at hc
  rcases hc with rfl | rfl | rfl <;> exact ⟨at3_readyOn _ rfl, ⟨_, rfl⟩, by decide⟩

theorem test_witness_BeaconsSendOneBurst : ∀ c ∈ [sch, fcch], (at3 c).readyOn 3#8 ∧ ((at3 c).getCtx 3#8).enc.active = true ∧
    0 ≤ timeCmp hardware (at3 c).nowTime (((at3 c).getCtx 3#8).resync hardware (at3 c).t0).enc.prevWT ∧
    (((at3 c).getCtx 3#8).cfg.kind = .sch ∨ ((at3 c).getCtx 3#8).cfg.kind = .fcch) := by
  intro c hc
  rcases List.mem_pair.1 hc with rfl | rfl <;> exact ⟨at3_readyOn _ rfl, rfl, by decide +kernel, by decide⟩

theorem test_witness_TchSendSlotSendsFourBursts : (at3 tch).readyOn 3#8 ∧ ((at3 tch).getCtx 3#8).cfg.kind = .tch ∧
    ((at3 tch).getCtx 3#8).enc.active = true ∧
    0 ≤ timeCmp hardware (at3 tch).nowTime (((at3 tch).getCtx 3#8).resync hardware (at3 tch).t0).enc.prevWT :=
  ⟨at3_readyOn _ rfl, rfl, rfl, by decide +kernel⟩

/-- An open encoder one timeslot before the wait ends, and a closed one, of every sending kind. -/
theorem test_witness_SendersHoldOrDiscard : ∀ k ∈ [Kind.xcch, .sacch, .sch, .fcch, .tch], ∃ c1 c2 : Ctx,
    (at3 c1).readyOn 3#8 ∧ (at3 c2).readyOn 3#8 ∧ c1.cfg.kind = k ∧ c2.cfg.kind = k ∧ k.hasEncoder = true ∧
    ((at3 c1).getCtx 3#8).enc.active = true ∧
    timeCmp hardware (at3 c1).nowTime (((at3 c1).getCtx 3#8).resync hardware (at3 c1).t0).enc.prevWT < 0 ∧
    timeCmp hardware (at3 c1).nowTime ((at3 c1).getCtx 3#8).enc.prevWT < 0 ∧ ((at3 c2).getCtx 3#8).enc.active = false := by
  intro k hk
  refine ⟨{ openCtx k (some (mapA true)) (some (mapA false)) with
      enc := { (openCtx k (some (mapA true)) none).enc with prevWT := ⟨100, 4#3⟩ } },
    { openCtx k (some (mapA true)) none with enc := Encoder.reset }, ?_⟩
  simp only [List.mem_cons, List.not_mem_nil, or_false] at hk
  rcases hk with rfl | rfl | rfl | rfl | rfl <;>
    exact ⟨at3_readyOn _ rfl, at3_readyOn _ rfl, rfl, rfl, rfl, rfl, by decide +kernel, by decide +kernel, rfl⟩

/-- `nextWT` one frame before the clock, on it, at the end of the window and one frame past it. -/
theorem test_witness_ResyncAndWaitComplete : ∃ c : Nat → Ctx,
    (∀ f, (at3 (c f)).readyOn 3#8 ∧ ((at3 (c f)).getCtx 3#8).cfg.kind.hasEncoder = true ∧
      (c f).cfg.txmap = some (mapA true) ∧ (c f).enc.nextWT.fn = f ∧ 0 ≤ timeCmp hardware (at3 (c f)).nowTime (c f).enc.prevWT) ∧
    (((99 : Int) - 100 + 1357824) % 2715648 - 1357824 < 0) ∧ (0 ≤ ((100 : Int) - 100 + 1357824) % 2715648 - 1357824) ∧
    (((1426 : Int) - 100 + 1357824) % 2715648 - 1357824 ≤ 1326) ∧ 1326 < ((1427 : Int) - 100 + 1357824) % 2715648 - 1357824 :=
  ⟨fun f => { xcch with enc := { xcch.enc with nextWT := ⟨f, 2#3⟩ } },
    fun _ => ⟨at3_readyOn _ rfl, rfl, rfl, rfl, show 0 ≤ timeCmp hardware ⟨100, 3#3⟩ ⟨100, 2#3⟩ by decide +kernel⟩, by decide, by decide, by decide, by decide⟩

theorem test_witness_MeasurementCommandsAnswer : (at3 xcch).readyOn 3#8 ∧ ((at3 xcch).getCtx 3#8).hasDecoder = true ∧
    ((at3 xcch).getCtx 3#8).cfg.kind = .xcch := ⟨at3_readyOn _ rfl, rfl, rfl⟩

theorem test_witness_FerFilterBounds : 3615 ≤ (3615 : Nat) := le_refl _

/-- The largest frame number. -/
theorem test_witness_TimeCommandsAnswer : State.reset.ready ∧ (0xE0296FFF#32).extractLsb' 22 7 = 0#7 ∧
    ((0xE0296FFF#32).extractLsb' 0 22).toNat < 2715648 := ⟨reset_ready, by decide, by decide⟩

theorem test_witness_MappingCommandsAnswer : (at3 xcch).readyOn 3#8 ∧ (0#16).toNat < 2 ∧ (1#16).toNat < 2 ∧
    (0x00296FFF#32).extractLsb' 22 7 = 0#7 ∧ ((0x00296FFF#32).extractLsb' 0 22).toNat < 2715648 ∧
    (∀ arg ∈ [0#16, 1#16], ∃ M, (if arg = 1#16 then ((at3 xcch).getCtx 3#8).cfg.rxmap else ((at3 xcch).getCtx 3#8).cfg.txmap) = some M ∧
      M.forward.length ≤ 255) := by
  refine ⟨at3_readyOn _ rfl, by decide, by decide, by decide, by decide, ?_⟩
  intro arg h
  rcases List.mem_pair.1 h with rfl | rfl
  · exact ⟨mapA true, rfl, by decide⟩
  · exact ⟨mapA false, rfl, by decide⟩

/-- The last burst before the counter would wrap, on the schedule. -/
theorem test_witness_RollForwardAdvances : ∃ c : Ctx, c.cfg.txmap = some (mapA true) ∧
    mappingWf hardware c.cfg.kind c.cfg.tn true (mapA true) = true ∧ c.onSchedule = true ∧ c.enc.totalBursts.toNat + 1 < 2 ^ 32 ∧
    c.enc.totalBursts = 0xFFFFFFFE#32 :=
  ⟨{ xcch with enc := { xcch.enc with totalBursts := 0xFFFFFFFE#32, nextWT := ⟨108, 2#3⟩ } }, rfl, by decide +kernel,
    by decide +kernel, by decide, rfl⟩

/-- The generators of R162 are such polynomials: the zero generator of degree 0 and the code `x^1 + 1`. -/
theorem test_witness_ParityIsPolynomialDivision : IsPolyOf 0#0 0 ∧ IsPolyOf 1#1 1 := by
  refine ⟨fun i => by simp, fun i => ?_⟩
  rcases i with _ | i <;> simp [Polynomial.coeff_one]

theorem test_witness_InterleavingRoundTrips : ∀ off ∈ [0, 4], off = 0 ∨ off = 4 := by decide

/-- Coded bit `i` of a soft vector. -/
def codedBit {n : Nat} (q : Vector Soft (2 * n)) (i : Nat) : Bool := hard (q.getD i 0)

/-- Input bit `k - d` as the coded bits of the next pair show it (R190: `c[2k] ⊕ c[2k+1] = u[k-1]`), 0 before the start. -/
def pairBit {n : Nat} (q : Vector Soft (2 * n)) (k d : Nat) : Bool :=
  decide (d ≤ k) && xor (codedBit q (2 * (k - d) + 2)) (codedBit q (2 * (k - d) + 3))

/-- A decoder that corrects nothing: it solves the equations of R190. -/
def solve (n : Nat) (q : Vector Soft (2 * n)) : BitVec n :=
  bitsOf n fun k =>
    if k + 1 < n then pairBit q k 0 else xor (xor (codedBit q (2 * k)) (pairBit q k 3)) (pairBit q k 4)

theorem codedBit_image {n i : Nat} (u : BitVec n) (hi : i < 2 * n) :
    codedBit (image (convEncode u)) i = (convEncode u).getMsbD i := by
  cases h : (convEncode u).getMsbD i <;> simp [codedBit, image, vecOf, hi, h, hard, softOf]

theorem pairBit_image {n k d : Nat} (u : BitVec n) (hk : k < n) (hd : d = 0 → k + 1 < n) :
    pairBit (image (convEncode u)) k d = tap u k d := by
  by_cases h : d ≤ k
  · have e3 : (2 * (k - d) + 3) / 2 = k - d + 1 := by omega
    have e2 : (2 * (k - d) + 2) / 2 = k - d + 1 := by omega
    have m3 : (2 * (k - d) + 3) % 2 = 1 := by omega
    have m2 : (2 * (k - d) + 2) % 2 = 0 := by omega
    have l3 : 2 * (k - d) + 3 < 2 * n := by omega
    have l2 : 2 * (k - d) + 2 < 2 * n := by omega
    rw [pairBit, codedBit_image u l2, codedBit_image u l3]
    simp only [convEncode, getMsbD_bitsOf, l2, l3, e2, e3, m2, m3, if_true, decide_true, Bool.true_and]
    simp only [tap, h, decide_true, Bool.true_and, Nat.succ_sub_one, show 1 ≤ k - d + 1 by omega,
      Nat.zero_le, Nat.sub_zero]
    generalize u.getMsbD (k - d + 1) = a
    generalize (decide (3 ≤ k - d + 1) && u.getMsbD (k - d + 1 - 3)) = b
    generalize (decide (4 ≤ k - d + 1) && u.getMsbD (k - d + 1 - 4)) = c
    cases a <;> cases b <;> cases c <;> simp
  · simp [pairBit, tap, h]

theorem solve_clean : CleanCodewordLaw solve := by
  intro n u
  refine BitVec.eq_of_getMsbD_eq fun k hk => ?_
  rw [solve, getMsbD_bitsOf]
  simp only [hk, decide_true, Bool.true_and]
  split
  · rw [pairBit_image u hk fun _ => ‹_›]; simp [tap]
  · rw [pairBit_image u hk (by simp), pairBit_image u hk (by simp), codedBit_image u (by omega)]
    have e : 2 * k / 2 = k := by omega
    have l : 2 * k < 2 * n := by omega
    simp only [convEncode, getMsbD_bitsOf, l, e, Nat.mul_mod_right, if_true, decide_true, Bool.true_and]
    generalize tap u k 3 = a
    generalize tap u k 4 = b
    rw [show u.getMsbD k = tap u k 0 by simp [tap]]
    cases a <;> cases b <;> simp

/-- A block with a decoder other than the default, the parameters otherwise those of this spec's hardware. -/
theorem test_witness_RoundTrips : State.reset.ready ∧ ∃ P : BlockParams, P.val = { hardware with vd := solve } :=
  ⟨reset_ready, ⟨_, solve_clean, by decide, by decide, by decide, by decide⟩, rfl⟩

end Sys2Proof.Tests
end

section
/-! PROOFS. What a command does to the channel contexts, said once as a chain of a few kinds of rework, and why each kind
keeps a context legal, its schedule on its mapping and its times in range (R14, R57, R243, R244). -/

namespace Sys2Proof.Machine

open Config (Params)

/-! ## Legal contexts, part by part -/

/-- What `Ctx.legal` asks of the encoder part of a configured context (R46, R57 item 4, R418). -/
structure Ctx.EncoderLegal (c : Ctx) : Prop where
  active  : c.enc.active = true → c.cfg.kind.hasEncoder = true
  facchQ  : c.enc.facchQ.length ≤ 8
  speechQ : c.enc.speechQ.length ≤ 16
  queues  : c.cfg.kind = .tch ∨ (c.enc.facchQ = [] ∧ c.enc.speechQ = [])
  aligned : c.cfg.kind.hasRing = true → c.enc.totalBursts.toNat % 4 = 0

/-- What `Ctx.legal` asks of the decoder part of a configured context (R53, R54, R57 item 4, R360). -/
structure Ctx.DecoderLegal (c : Ctx) : Prop where
  accepting : c.dec.accepting = true → c.hasDecoder = true
  rachQ     : c.dec.rachQ.length ≤ 16
  queue     : c.cfg.kind = .rach ∨ c.dec.rachQ = []
  timing    : c.dec.actualMSTiming.toNat ≤ 63
  timers    : (c.cfg.kind.hasTimers = true ∧ c.hasDecoder = true) ∨
    (c.dec.t3101.armed = false ∧ c.dec.t3109.armed = false ∧ c.dec.t3111.armed = false)

/-- The mappings of a context are well-formed for its kind and timeslot (R244). -/
abbrev Ctx.Mapped (c : Ctx) : Prop := mappingsWf hardware c.cfg.kind c.cfg.tn c.cfg.txmap c.cfg.rxmap = true

theorem Ctx.Mapped.congr {c c' : Ctx} (h : c.Mapped) (hcfg : c'.cfg = c.cfg) : c'.Mapped := by
  rwa [Ctx.Mapped, hcfg]

theorem Ctx.legal_of_running {c : Ctx} (h : c.cfg.running = true) :
    c.legal = true ↔ c.Mapped ∧ c.EncoderLegal ∧ c.DecoderLegal := by
  rw [Ctx.legal, if_pos h]
  simp only [Bool.and_eq_true, Bool.or_eq_true, Bool.not_eq_true', decide_eq_true_eq, beq_iff_eq, List.isEmpty_iff]
  constructor
  · rintro ⟨⟨⟨⟨⟨⟨⟨⟨⟨⟨hm, hact⟩, hacc⟩, hf⟩, hs⟩, hr⟩, hq⟩, hrq⟩, htm⟩, ht⟩, hal⟩
    exact ⟨hm, ⟨fun h => by simpa [h] using hact, hf, hs, hq, fun h => by simpa [h] using hal⟩,
      ⟨fun h => by simpa [h] using hacc, hr, hrq, htm, ht.imp_right and_assoc.1⟩⟩
  · rintro ⟨hm, ⟨hact, hf, hs, hq, hal⟩, ⟨hacc, hr, hrq, htm, ht⟩⟩
    refine ⟨⟨⟨⟨⟨⟨⟨⟨⟨⟨hm, ?_⟩, ?_⟩, hf⟩, hs⟩, hr⟩, hq⟩, hrq⟩, htm⟩, ht.imp_right and_assoc.2⟩, ?_⟩
    · exact (Bool.eq_false_or_eq_true _).symm.imp_right hact
    · exact (Bool.eq_false_or_eq_true _).symm.imp_right hacc
    · exact (Bool.eq_false_or_eq_true _).symm.imp_right hal

/-! ## Mappings: offsets below the period -/

/-- No element of a strictly increasing list is above the last one. -/
theorem getElem_le_getLastD {l : List Word} (h : strictlyIncreasing l = true) (i : Nat) (hi : i < l.length) :
    (l[i]).toNat ≤ (l.getLastD 0).toNat := by
  induction l generalizing i with
  | nil => simp at hi
  | cons a l ih =>
    match l, i with
    | [], 0 => simp
    | b :: l, 0 =>
      simp only [strictlyIncreasing, Bool.and_eq_true, decide_eq_true_eq] at h
      have hb := ih h.2 0 (by simp)
      simp only [List.getElem_cons_zero, List.getLastD_cons] at hb ⊢
      omega
    | b :: l, i + 1 =>
      simp only [strictlyIncreasing, Bool.and_eq_true, decide_eq_true_eq] at h
      simpa using ih h.2 i (by simpa using hi)

/-- What the schedule needs of a mapping: its period divides the hyperframe, its offsets lie in the period. -/
structure Mapping.Periodic (M : Mapping) : Prop where
  dvd : M.p.toNat ∣ 2715648
  lt  : ∀ k, frameMapping M k < M.p.toNat

theorem Mapping.periodic_of_wf {kind : Kind} {tn : BitVec 3} {down : Bool} {M : Mapping}
    (h : mappingWf hardware kind tn down M = true) : M.Periodic := by
  simp only [mappingWf, Bool.and_eq_true, decide_eq_true_eq, hardware_hyperframe] at h
  obtain ⟨⟨⟨⟨⟨⟨⟨⟨hm, -⟩, -⟩, hdvd⟩, hinc⟩, hlast⟩, -⟩, -⟩, -⟩ := h
  refine ⟨Nat.dvd_of_mod_eq_zero (of_decide_eq_true hdvd), fun k => ?_⟩
  have hk : k % M.m < M.forward.length := Nat.mod_lt _ (by omega)
  rw [frameMapping, List.getD_eq_getElem _ _ hk]
  exact (getElem_le_getLastD hinc _ hk).trans_lt hlast

theorem Ctx.Mapped.periodic {c : Ctx} (h : c.Mapped) {M : Mapping} (hM : c.cfg.txmap = some M) : M.Periodic := by
  simp only [Ctx.Mapped, mappingsWf, Bool.and_eq_true, hM, Option.all_some] at h
  exact Mapping.periodic_of_wf h.1.2

/-- A downlink mapping has a whole number of blocks (R244 condition 4). -/
theorem Ctx.Mapped.txM_blocks {c : Ctx} (h : c.Mapped) (hk : c.cfg.kind.hasRing = true) : 4 ∣ c.txM := by
  rcases hM : c.cfg.txmap with _ | M
  · simp [Ctx.txM, hM]
  · simp only [Ctx.Mapped, mappingsWf, mappingWf, Bool.and_eq_true, hM, Option.all_some, decide_eq_true_eq] at h
    have hb := h.1.2.1.1.2
    rw [Ctx.txM, hM]
    cases hkind : c.cfg.kind <;> simp [hkind, blockBursts, Kind.hasRing] at hb hk ⊢ <;> omega

/-! ## Schedules on their mapping -/

/-- A roll ends at its target, across the hyperframe wrap too (R243). -/
theorem rollTo_fn_mod (t : Time) {target p : Nat} (hp : p ∣ 2715648) (ht : target < p) :
    (rollTo hardware t target p).fn % p = target := by
  have hpH : (p : Int) ∣ 2715648 := by exact_mod_cast hp
  have hfn : ((rollTo hardware t target p).fn : Int) = (t.fn + (target - t.fn : Int) % p) % 2715648 := by
    simp only [rollTo, fnAdd, fnOfInt, hardware_hyperframe]
    exact Int.toNat_of_nonneg (Int.emod_nonneg _ (by decide))
  have hmod : ((rollTo hardware t target p).fn : Int) % p = target := by
    rw [hfn, Int.emod_emod_of_dvd _ hpH, Int.add_emod_emod, add_sub_cancel]
    exact Int.emod_eq_of_lt (by omega) (by omega)
  exact_mod_cast hmod

theorem Ctx.onSchedule_none {c : Ctx} (h : c.cfg.txmap = none) : c.onSchedule = true := by simp [Ctx.onSchedule, h]

theorem Ctx.onSchedule_some {c : Ctx} {M : Mapping} (h : c.cfg.txmap = some M) :
    c.onSchedule = true ↔ c.enc.nextWT.tn = c.cfg.tn ∧ c.enc.prevWT.tn = c.cfg.tn ∧
      c.enc.nextWT.fn % M.p.toNat = frameMapping M c.enc.totalBursts.toNat := by
  simp [Ctx.onSchedule, h, and_assoc]

/-- A schedule is on its mapping or not by the configuration, `nextWT`, `prevWT` and `totalBursts` alone. -/
theorem Ctx.onSchedule_congr {c c' : Ctx} (hcfg : c'.cfg = c.cfg) (hn : c'.enc.nextWT = c.enc.nextWT)
    (hp : c'.enc.prevWT = c.enc.prevWT) (hb : c'.enc.totalBursts = c.enc.totalBursts) :
    c'.onSchedule = c.onSchedule := by
  simp only [Ctx.onSchedule, hcfg, hn, hp, hb]

/-- `reseat` puts a schedule on its mapping, wherever it was (R250). -/
theorem Ctx.onSchedule_reseat {c : Ctx} (h : c.Mapped) (t : Time) : (c.reseat hardware t).onSchedule = true := by
  rcases hM : c.cfg.txmap with _ | M
  · exact Ctx.onSchedule_none (by simpa using hM)
  · obtain ⟨hdvd, hlt⟩ := h.periodic hM
    rw [Ctx.onSchedule_some (M := M) (by simpa using hM), Ctx.reseat_some _ hM]
    exact ⟨rfl, rfl, rollTo_fn_mod _ hdvd (hlt _)⟩

theorem Ctx.onSchedule_resync {c : Ctx} (h : c.Mapped) (hs : c.onSchedule = true) (t : Time) :
    (c.resync hardware t).onSchedule = true := by
  rcases c.resync_cases hardware t with e | e <;> rw [e]
  · exact Ctx.onSchedule_reseat h t
  · exact hs

/-- `roll` keeps a schedule on its mapping (R247). -/
theorem Ctx.onSchedule_roll {c : Ctx} (h : c.Mapped) (hs : c.onSchedule = true) : (c.roll hardware).onSchedule = true := by
  rcases hM : c.cfg.txmap with _ | M
  · exact Ctx.onSchedule_none (by simpa using hM)
  · obtain ⟨hdvd, hlt⟩ := h.periodic hM
    rw [Ctx.onSchedule_some hM] at hs
    rw [Ctx.onSchedule_some (M := M) (by simpa using hM), Ctx.roll_some _ hM]
    exact ⟨hs.1, hs.1, rollTo_fn_mod _ hdvd (hlt _)⟩

/-! ## Times in range -/

theorem Time.legal_hardware (t : Time) : t.legal hardware = true ↔ t.fn < 2715648 := decide_eq_true_iff

theorem Ctx.timesLegal_iff (c : Ctx) : c.timesLegal = true ↔ c.enc.nextWT.legal hardware = true ∧
    c.enc.prevWT.legal hardware = true ∧ ∀ b ∈ c.dec.rachQ, b.time.legal hardware = true := by
  simp [Ctx.timesLegal, Time.legal_hardware, and_assoc]

theorem rollTo_legal_hardware (t : Time) (target p : Nat) : (rollTo hardware t target p).legal hardware = true :=
  (rollTo_legal (by decide) t target p).1

theorem Ctx.timesLegal_reseat {c : Ctx} (h : c.timesLegal = true) {t : Time} (ht : t.legal hardware = true) :
    (c.reseat hardware t).timesLegal = true := by
  rcases hM : c.cfg.txmap with _ | M
  · rwa [Ctx.reseat_none _ hM]
  · rw [Ctx.timesLegal_iff] at h ⊢
    rw [Ctx.reseat_some _ hM]
    exact ⟨rollTo_legal_hardware _ _ _, ht, h.2.2⟩

theorem Ctx.timesLegal_resync {c : Ctx} (h : c.timesLegal = true) {t : Time} (ht : t.legal hardware = true) :
    (c.resync hardware t).timesLegal = true := by
  rcases c.resync_cases hardware t with e | e <;> rw [e]
  · exact Ctx.timesLegal_reseat h ht
  · exact h

theorem Ctx.timesLegal_roll {c : Ctx} (h : c.timesLegal = true) : (c.roll hardware).timesLegal = true := by
  rcases hM : c.cfg.txmap with _ | M
  · rwa [Ctx.roll_none _ hM]
  · rw [Ctx.timesLegal_iff] at h ⊢
    rw [Ctx.roll_some _ hM]
    exact ⟨rollTo_legal_hardware _ _ _, h.1, h.2.2⟩

/-! ## What opening and closing do to the encoder and the decoder -/

theorem Ctx.hasDecoder_congr {c c' : Ctx} (h : c'.cfg = c.cfg) : c'.hasDecoder = c.hasDecoder := by
  simp only [Ctx.hasDecoder, h]

/-- `open` reseats the schedule of a new encoder state, or leaves the encoder alone (R277). -/
theorem Ctx.open_enc (c : Ctx) (ia : Bool) (t : Time) (ms : Word) (r : Csr) :
    (c.open hardware ia t ms r).enc = if c.cfg.kind.hasEncoder then (c.openEnc hardware t).enc else c.enc := by
  unfold Ctx.open
  simp only
  split <;> split <;> simp

/-- `open` starts the decoder anew, or leaves it alone (R277). -/
theorem Ctx.open_dec (c : Ctx) (ia : Bool) (t : Time) (ms : Word) (r : Csr) :
    (c.open hardware ia t ms r).dec = if c.hasDecoder then (c.openDec ia ms r).dec else c.dec := by
  unfold Ctx.open
  simp only
  split <;> split <;> simp [Ctx.openDec]

/-- The context with the encoder open and no burst counted yet, whose schedule `open` reseats (R277). -/
def Ctx.openedEnc (c : Ctx) : Ctx := { c with enc := { c.enc with active := true, totalBursts := 0 } }

/-- What `openEnc` sets: the schedule is reseated, the count is 0, and a TCH context's queues are empty (R277). -/
theorem Ctx.openEnc_fields (c : Ctx) (t : Time) :
    (c.openEnc hardware t).enc.nextWT = (c.openedEnc.reseat hardware t).enc.nextWT ∧
    (c.openEnc hardware t).enc.prevWT = (c.openedEnc.reseat hardware t).enc.prevWT ∧
    (c.openEnc hardware t).enc.totalBursts = 0 ∧
    (c.cfg.kind = .tch ∧ (c.openEnc hardware t).enc.facchQ = [] ∧ (c.openEnc hardware t).enc.speechQ = [] ∨
      (c.openEnc hardware t).enc.facchQ = c.enc.facchQ ∧ (c.openEnc hardware t).enc.speechQ = c.enc.speechQ) := by
  obtain ⟨n, p, h⟩ := c.openedEnc.reseat_frame hardware t
  have hb : (c.openedEnc.reseat hardware t).enc.totalBursts = 0 := by rw [h]; rfl
  unfold Ctx.openEnc
  simp only
  split
  · exact ⟨rfl, rfl, hb, .inl ⟨‹_›, rfl, rfl⟩⟩
  · exact ⟨rfl, rfl, hb, .inr (by rw [← Ctx.openedEnc, h]; exact ⟨rfl, rfl⟩)⟩

theorem Ctx.closeEnc_enc (c : Ctx) :
    c.closeEnc.enc = { c.enc with active := if c.cfg.kind.hasEncoder then false else c.enc.active } := by
  unfold Ctx.closeEnc
  split <;> rfl

/-- What `closeDec` leaves of a decoder: its queue and its timing; it arms a timer only where the kind has timers (R278). -/
theorem Ctx.closeDec_dec (c : Ctx) (ms : Word) (r : Csr) :
    (c.closeDec ms r).dec.rachQ = c.dec.rachQ ∧ (c.closeDec ms r).dec.actualMSTiming = c.dec.actualMSTiming ∧
    ((c.closeDec ms r).dec.accepting = true → c.dec.accepting = true) ∧
    ((c.cfg.kind.hasTimers = true ∧ c.hasDecoder = true) ∨
      (c.closeDec ms r).dec.t3101 = c.dec.t3101 ∧ (c.closeDec ms r).dec.t3109 = c.dec.t3109 ∧
      (c.closeDec ms r).dec.t3111 = c.dec.t3111) := by
  unfold Ctx.closeDec
  split
  · rename_i hd
    simp only
    split
    · exact ⟨rfl, rfl, by simp, .inl ⟨‹_›, hd⟩⟩
    · exact ⟨rfl, rfl, by simp, .inr ⟨rfl, rfl, rfl⟩⟩
  · exact ⟨rfl, rfl, id, .inr ⟨rfl, rfl, rfl⟩⟩

/-- What `openDec` leaves of a decoder: its queue, or none for a RACH context, and its timing; it sets a timer only where the
kind has timers (R277). -/
theorem Ctx.openDec_dec (c : Ctx) (ia : Bool) (ms : Word) (r : Csr) :
    ((c.openDec ia ms r).dec.rachQ = [] ∨ (c.openDec ia ms r).dec.rachQ = c.dec.rachQ) ∧
    (c.openDec ia ms r).dec.actualMSTiming = c.dec.actualMSTiming ∧
    (c.cfg.kind.hasTimers = true ∨ (c.openDec ia ms r).dec.t3101 = c.dec.t3101 ∧
      (c.openDec ia ms r).dec.t3109 = c.dec.t3109 ∧ (c.openDec ia ms r).dec.t3111 = c.dec.t3111) := by
  cases hk : c.cfg.kind <;> simp [Ctx.openDec, hk, Kind.hasTimers]

/-! ## The kinds of rework -/

/-- An encoder that differs from the one of `c` in its buffers, its queues and its flags only, the queues within their
capacities (R46). -/
structure Ctx.Recodes (c : Ctx) (e : Encoder) : Prop where
  active      : e.active = c.enc.active
  nextWT      : e.nextWT = c.enc.nextWT
  prevWT      : e.prevWT = c.enc.prevWT
  totalBursts : e.totalBursts = c.enc.totalBursts
  facchQ      : c.enc.facchQ.length ≤ 8 → e.facchQ.length ≤ 8
  speechQ     : c.enc.speechQ.length ≤ 16 → e.speechQ.length ≤ 16
  queues      : c.cfg.kind = .tch ∨ (e.facchQ = c.enc.facchQ ∧ e.speechQ = c.enc.speechQ)

/-- A decoder that accepts bursts as the one of `c` does, its queue within capacity and its times in range (R14, R54); it
differs in its timers only where the kind has them (R360). -/
structure Ctx.Redecodes (c : Ctx) (d : Decoder) : Prop where
  accepting : d.accepting = c.dec.accepting
  rachQ     : c.dec.rachQ.length ≤ 16 → d.rachQ.length ≤ 16
  queue     : c.cfg.kind = .rach ∨ d.rachQ = c.dec.rachQ
  times     : ∀ b ∈ d.rachQ, b ∈ c.dec.rachQ ∨ b.time.legal hardware = true
  timing    : c.dec.actualMSTiming.toNat ≤ 63 → d.actualMSTiming.toNat ≤ 63
  timers    : (c.cfg.kind.hasTimers = true ∧ c.hasDecoder = true) ∨
    (d.t3101 = c.dec.t3101 ∧ d.t3109 = c.dec.t3109 ∧ d.t3111 = c.dec.t3111)

/-- One rework of a configured context; `T` says which times it may take from the clock. -/
inductive Ctx.Rework (T : Time → Prop) : Ctx → Ctx → Prop where
  /-- `n` roll forwards (R247), whole blocks of four where the kind sends blocks (R418). -/
  | roll (c : Ctx) (n : Nat) (h : c.Mapped → c.cfg.kind.hasRing = true → 4 ∣ n) : Rework T c ((Ctx.roll hardware)^[n] c)
  /-- A resync (R248). -/
  | resync (c : Ctx) (t : Time) (h : T t) : Rework T c (c.resync hardware t)
  /-- An open (R277). -/
  | opened (c : Ctx) (ia : Bool) (t : Time) (ms : Word) (r : Csr) (h : T t) : Rework T c (c.open hardware ia t ms r)
  /-- The encoder closes (R278). -/
  | closeEnc (c : Ctx) : Rework T c c.closeEnc
  /-- The decoder closes (R278). -/
  | closeDec (c : Ctx) (ms : Word) (r : Csr) : Rework T c (c.closeDec ms r)
  /-- The encoder changes off its schedule. -/
  | encoder (c : Ctx) (e : Encoder) (h : c.Recodes e) : Rework T c { c with enc := e }
  /-- The decoder changes while it stays open or closed. -/
  | decoder (c : Ctx) (d : Decoder) (h : c.Redecodes d) : Rework T c { c with dec := d }

variable {T : Time → Prop} {c c' : Ctx}

@[simp] theorem Ctx.iterate_roll_cfg (c : Ctx) (n : Nat) : ((Ctx.roll hardware)^[n] c).cfg = c.cfg := by
  induction n with
  | zero => rfl
  | succ n ih => rw [Function.iterate_succ_apply', Ctx.roll_cfg, ih]

@[simp] theorem Ctx.iterate_roll_dec (c : Ctx) (n : Nat) : ((Ctx.roll hardware)^[n] c).dec = c.dec := by
  induction n with
  | zero => rfl
  | succ n ih => rw [Function.iterate_succ_apply', Ctx.roll_dec, ih]

/-- A rework keeps the configuration (R41). -/
theorem Ctx.Rework.cfg (h : c.Rework T c') : c'.cfg = c.cfg := by
  cases h <;> simp

/-! ## A rework keeps a context legal -/

/-- The parts of the encoder that `EncoderLegal` reads may change only so. -/
theorem Ctx.EncoderLegal.of_frame (h : c.EncoderLegal) (hcfg : c'.cfg = c.cfg)
    (hact : c'.enc.active = true → c.cfg.kind.hasEncoder = true)
    (hf : c'.enc.facchQ.length ≤ 8) (hs : c'.enc.speechQ.length ≤ 16)
    (hq : c.cfg.kind = .tch ∨ (c'.enc.facchQ = c.enc.facchQ ∧ c'.enc.speechQ = c.enc.speechQ))
    (hal : c.cfg.kind.hasRing = true → c'.enc.totalBursts.toNat % 4 = 0) : c'.EncoderLegal := by
  refine ⟨by rwa [hcfg], hf, hs, ?_, by rwa [hcfg]⟩
  rw [hcfg]
  rcases hq with hq | ⟨hq1, hq2⟩
  · exact .inl hq
  · rw [hq1, hq2]; exact h.queues

theorem Ctx.EncoderLegal.congr (h : c.EncoderLegal) (hcfg : c'.cfg = c.cfg) (henc : c'.enc = c.enc) : c'.EncoderLegal :=
  h.of_frame hcfg (henc ▸ h.active) (henc ▸ h.facchQ) (henc ▸ h.speechQ) (.inr (by simp [henc])) (henc ▸ h.aligned)

theorem Ctx.DecoderLegal.of_frame (h : c.DecoderLegal) (hcfg : c'.cfg = c.cfg)
    (hacc : c'.dec.accepting = true → c.hasDecoder = true) (hr : c'.dec.rachQ.length ≤ 16)
    (hq : c.cfg.kind = .rach ∨ c'.dec.rachQ = [] ∨ c'.dec.rachQ = c.dec.rachQ)
    (htm : c'.dec.actualMSTiming.toNat ≤ 63)
    (ht : (c.cfg.kind.hasTimers = true ∧ c.hasDecoder = true) ∨
      (c'.dec.t3101 = c.dec.t3101 ∧ c'.dec.t3109 = c.dec.t3109 ∧ c'.dec.t3111 = c.dec.t3111)) : c'.DecoderLegal := by
  have hd := Ctx.hasDecoder_congr hcfg
  refine ⟨by rwa [hd], hr, ?_, htm, ?_⟩
  · rw [hcfg]
    rcases hq with hq | hq | hq
    · exact .inl hq
    · exact .inr hq
    · rw [hq]; exact h.queue
  · rw [hcfg, hd]
    rcases ht with ht | ⟨h1, h2, h3⟩
    · exact .inl ht
    · rw [h1, h2, h3]; exact h.timers

theorem Ctx.DecoderLegal.congr (h : c.DecoderLegal) (hcfg : c'.cfg = c.cfg) (hdec : c'.dec = c.dec) : c'.DecoderLegal :=
  h.of_frame hcfg (hdec ▸ h.accepting) (hdec ▸ h.rachQ) (.inr (.inr (by rw [hdec]))) (hdec ▸ h.timing)
    (.inr (by simp [hdec]))

/-- `n` rolls change of the encoder only its schedule and its count, which stays a multiple of 4 if `n` is one. -/
theorem Ctx.iterate_roll_enc (c : Ctx) (n : Nat) :
    ((Ctx.roll hardware)^[n] c).enc.active = c.enc.active ∧ ((Ctx.roll hardware)^[n] c).enc.facchQ = c.enc.facchQ ∧
    ((Ctx.roll hardware)^[n] c).enc.speechQ = c.enc.speechQ ∧
    (((Ctx.roll hardware)^[n] c).enc.totalBursts = c.enc.totalBursts ∨
      ((Ctx.roll hardware)^[n] c).enc.totalBursts = c.enc.totalBursts + BitVec.ofNat 32 n) := by
  rcases hM : c.cfg.txmap with _ | M
  · rw [Function.iterate_fixed (Ctx.roll_none hardware hM)]
    exact ⟨rfl, rfl, rfl, .inl rfl⟩
  · suffices h : ((Ctx.roll hardware)^[n] c).enc.active = c.enc.active ∧
        ((Ctx.roll hardware)^[n] c).enc.facchQ = c.enc.facchQ ∧ ((Ctx.roll hardware)^[n] c).enc.speechQ = c.enc.speechQ ∧
        ((Ctx.roll hardware)^[n] c).enc.totalBursts = c.enc.totalBursts + BitVec.ofNat 32 n from
      ⟨h.1, h.2.1, h.2.2.1, .inr h.2.2.2⟩
    induction n with
    | zero => simp
    | succ n ih =>
      rw [Function.iterate_succ_apply', Ctx.roll_some _ (M := M) (by simpa using hM)]
      obtain ⟨ha, hf, hs, hb⟩ := ih
      refine ⟨ha, hf, hs, ?_⟩
      simp only [countBurst_hardware, hb, BitVec.ofNat_add]
      exact BitVec.add_assoc _ _ _

theorem Ctx.Rework.encoderLegal (h : c.Rework T c') (hm : c.Mapped) (hc : c.EncoderLegal) : c'.EncoderLegal := by
  have hcfg := h.cfg
  cases h with
  | roll n hn =>
    obtain ⟨ha, hf, hs, hb⟩ := c.iterate_roll_enc n
    refine hc.of_frame hcfg (ha ▸ hc.active) (hf ▸ hc.facchQ) (hs ▸ hc.speechQ) (.inr ⟨hf, hs⟩) fun hr => ?_
    have h4 := hc.aligned hr
    have hn := hn hm hr
    rcases hb with hb | hb <;> rw [hb]
    · exact h4
    · rw [BitVec.toNat_add, BitVec.toNat_ofNat]
      omega
  | resync t ht =>
    obtain ⟨n, p, e⟩ := c.resync_frame hardware t
    rw [e]
    exact hc.of_frame rfl hc.active hc.facchQ hc.speechQ (.inr ⟨rfl, rfl⟩) hc.aligned
  | opened ia t ms r ht =>
    have henc := c.open_enc ia t ms r
    split at henc
    · obtain ⟨-, -, hb, hq⟩ := c.openEnc_fields t
      rw [← henc] at hb hq
      refine hc.of_frame hcfg (fun _ => ‹_›) ?_ ?_ (hq.imp And.left id) fun _ => by rw [hb]; rfl
      · rcases hq with ⟨-, hf, -⟩ | ⟨hf, -⟩ <;> rw [hf]
        · simp
        · exact hc.facchQ
      · rcases hq with ⟨-, -, hs⟩ | ⟨-, hs⟩ <;> rw [hs]
        · simp
        · exact hc.speechQ
    · exact hc.congr hcfg henc
  | closeEnc =>
    have he := c.closeEnc_enc
    refine hc.of_frame hcfg (fun h => hc.active ?_) (he ▸ hc.facchQ) (he ▸ hc.speechQ) (.inr (by simp [he]))
      (he ▸ hc.aligned)
    rw [he] at h
    simp only at h
    split at h
    · simp at h
    · exact h
  | closeDec ms r => exact hc.congr hcfg (by simp)
  | encoder e he =>
    refine hc.of_frame hcfg (fun h => hc.active (he.active ▸ h)) (he.facchQ hc.facchQ) (he.speechQ hc.speechQ) he.queues ?_
    exact fun hr => by rw [he.totalBursts]; exact hc.aligned hr
  | decoder d hd => exact hc.congr rfl rfl

theorem Ctx.Rework.decoderLegal (h : c.Rework T c') (hc : c.DecoderLegal) : c'.DecoderLegal := by
  have hcfg := h.cfg
  cases h with
  | roll n hn => exact hc.congr hcfg (by simp)
  | resync t ht => exact hc.congr hcfg (by simp)
  | opened ia t ms r ht =>
    have hdec := c.open_dec ia t ms r
    split at hdec
    · rename_i hd
      obtain ⟨hq, htm, ht⟩ := c.openDec_dec ia ms r
      rw [← hdec] at hq htm ht
      refine hc.of_frame hcfg (fun _ => hd) ?_ (.inr hq) (by rw [htm]; exact hc.timing) (ht.imp_left (⟨·, hd⟩))
      rcases hq with hq | hq <;> rw [hq]
      · simp
      · exact hc.rachQ
    · exact hc.congr hcfg hdec
  | closeEnc => exact hc.congr hcfg (by simp)
  | closeDec ms r =>
    obtain ⟨hq, htm, hacc, ht⟩ := c.closeDec_dec ms r
    exact hc.of_frame hcfg (fun h => hc.accepting (hacc h)) (hq ▸ hc.rachQ) (.inr (.inr hq)) (htm ▸ hc.timing) ht
  | encoder e he => exact hc.congr rfl rfl
  | decoder d hd =>
    exact hc.of_frame rfl (fun h => hc.accepting (hd.accepting ▸ h)) (hd.rachQ hc.rachQ) (hd.queue.imp_right .inr)
      (hd.timing hc.timing) hd.timers

/-! ## A rework keeps schedules and times -/

theorem Ctx.Rework.onSchedule (h : c.Rework T c') (hm : c.Mapped) (hs : c.onSchedule = true) : c'.onSchedule = true := by
  have hcfg := h.cfg
  cases h with
  | roll n hn =>
    clear hn hcfg
    induction n with
    | zero => exact hs
    | succ n ih => rw [Function.iterate_succ_apply']; exact Ctx.onSchedule_roll (hm.congr (c.iterate_roll_cfg n)) ih
  | resync t ht => exact Ctx.onSchedule_resync hm hs t
  | opened ia t ms r ht =>
    have henc := c.open_enc ia t ms r
    split at henc
    · obtain ⟨hn, hp, hb, -⟩ := c.openEnc_fields t
      obtain ⟨n, p, he⟩ := c.openedEnc.reseat_frame hardware t
      rw [Ctx.onSchedule_congr (c := c.openedEnc.reseat hardware t) (by simp [Ctx.openedEnc]) (henc ▸ hn) (henc ▸ hp)
        (by rw [henc, hb, he]; rfl)]
      exact Ctx.onSchedule_reseat (c := c.openedEnc) hm t
    · rwa [Ctx.onSchedule_congr hcfg (by rw [henc]) (by rw [henc]) (by rw [henc])]
  | closeEnc => rwa [Ctx.onSchedule_congr hcfg] <;> rw [Ctx.closeEnc_enc]
  | closeDec ms r => rwa [Ctx.onSchedule_congr hcfg] <;> simp
  | encoder e he => rwa [Ctx.onSchedule_congr (c := c) (c' := { c with enc := e }) rfl he.nextWT he.prevWT he.totalBursts]
  | decoder d hd => exact hs

theorem Ctx.timesLegal_of_frame (h : c.timesLegal = true) (hn : c'.enc.nextWT = c.enc.nextWT)
    (hp : c'.enc.prevWT = c.enc.prevWT) (hq : ∀ b ∈ c'.dec.rachQ, b ∈ c.dec.rachQ ∨ b.time.legal hardware = true) :
    c'.timesLegal = true := by
  rw [Ctx.timesLegal_iff] at h ⊢
  rw [hn, hp]
  exact ⟨h.1, h.2.1, fun b hb => (hq b hb).elim (h.2.2 b) id⟩

theorem Ctx.Rework.timesLegal (h : c.Rework T c') (hT : ∀ t, T t → t.legal hardware = true) (hc : c.timesLegal = true) :
    c'.timesLegal = true := by
  cases h with
  | roll n hn =>
    clear hn
    induction n with
    | zero => exact hc
    | succ n ih => rw [Function.iterate_succ_apply']; exact Ctx.timesLegal_roll ih
  | resync t ht => exact Ctx.timesLegal_resync hc (hT t ht)
  | opened ia t ms r ht =>
    have hq : ∀ b ∈ (c.open hardware ia t ms r).dec.rachQ, b ∈ c.dec.rachQ := by
      rw [Ctx.open_dec]
      split
      · rcases (c.openDec_dec ia ms r).1 with hq | hq <;> rw [hq] <;> simp
      · exact fun b hb => hb
    have henc := c.open_enc ia t ms r
    split at henc
    · obtain ⟨hn, hp, -, -⟩ := c.openEnc_fields t
      exact Ctx.timesLegal_of_frame (c := c.openedEnc.reseat hardware t)
        (Ctx.timesLegal_reseat (c := c.openedEnc) hc (hT t ht)) (henc ▸ hn) (henc ▸ hp)
        fun b hb => .inl (by simpa [Ctx.openedEnc] using hq b hb)
    · exact Ctx.timesLegal_of_frame hc (by rw [henc]) (by rw [henc]) fun b hb => .inl (hq b hb)
  | closeEnc => refine Ctx.timesLegal_of_frame hc ?_ ?_ fun b hb => .inl ?_ <;> simp_all [Ctx.closeEnc_enc]
  | closeDec ms r =>
    exact Ctx.timesLegal_of_frame hc (by simp) (by simp) fun b hb => .inl ((c.closeDec_dec ms r).1 ▸ hb)
  | encoder e he => exact Ctx.timesLegal_of_frame hc he.nextWT he.prevWT fun b hb => .inl hb
  | decoder d hd => exact Ctx.timesLegal_of_frame hc rfl rfl hd.times

/-! ## Chains of reworks -/

/-- Some reworks one after the other. -/
abbrev Ctx.Reworks (T : Time → Prop) : Ctx → Ctx → Prop := Relation.ReflTransGen (Ctx.Rework T)

theorem Ctx.Reworks.cfg (h : c.Reworks T c') : c'.cfg = c.cfg := by
  induction h with
  | refl => rfl
  | tail _ hr ih => rw [hr.cfg, ih]

theorem Ctx.Reworks.legal (h : c.Reworks T c') (hrun : c.cfg.running = true) (hc : c.legal = true) :
    c'.legal = true := by
  have hcfg := Ctx.Reworks.cfg h
  obtain ⟨hm, he, hd⟩ := (Ctx.legal_of_running hrun).1 hc
  refine (Ctx.legal_of_running (by rwa [hcfg])).2 ⟨hm.congr hcfg, ?_⟩
  clear hcfg hrun hc
  induction h with
  | refl => exact ⟨he, hd⟩
  | tail h hr ih => exact ⟨hr.encoderLegal (hm.congr (Ctx.Reworks.cfg h)) ih.1, hr.decoderLegal ih.2⟩

theorem Ctx.Reworks.onSchedule (h : c.Reworks T c') (hm : c.Mapped) (hs : c.onSchedule = true) :
    c'.onSchedule = true := by
  induction h with
  | refl => exact hs
  | tail h hr ih => exact hr.onSchedule (hm.congr (Ctx.Reworks.cfg h)) ih

theorem Ctx.Reworks.timesLegal (h : c.Reworks T c') (hT : ∀ t, T t → t.legal hardware = true)
    (hc : c.timesLegal = true) : c'.timesLegal = true := by
  induction h with
  | refl => exact hc
  | tail _ hr ih => exact hr.timesLegal hT ih

/-! ## A context just configured -/

/-- The reset context has a legal state for every configuration (R272). -/
theorem Ctx.legal_configured {cfg : ChanConfig} (hrun : cfg.running = true)
    (hm : mappingsWf hardware cfg.kind cfg.tn cfg.txmap cfg.rxmap = true) :
    ({ Ctx.reset with cfg := cfg } : Ctx).legal = true :=
  (Ctx.legal_of_running hrun).2 ⟨hm, ⟨nofun, Nat.zero_le _, Nat.zero_le _, .inr ⟨rfl, rfl⟩, fun _ => rfl⟩,
    ⟨nofun, Nat.zero_le _, .inr rfl, Nat.zero_le _, .inr ⟨rfl, rfl, rfl⟩⟩⟩

theorem Ctx.legal_reseat (hrun : c.cfg.running = true) (h : c.legal = true) (t : Time) :
    (c.reseat hardware t).legal = true := by
  obtain ⟨n, p, e⟩ := c.reseat_frame hardware t
  obtain ⟨hm, he, hd⟩ := (Ctx.legal_of_running hrun).1 h
  rw [e]
  exact (Ctx.legal_of_running (c := { c with enc := { c.enc with nextWT := n, prevWT := p } }) hrun).2
    ⟨hm, he.of_frame rfl he.active he.facchQ he.speechQ (.inr ⟨rfl, rfl⟩) he.aligned, hd.congr rfl rfl⟩

theorem mapped_of_configurable {w0 : Word} {tx rx : MapRecord} {k : Kind} (h : configurable hardware w0 tx rx = some k) :
    (configured k w0 tx rx).Mapped := by
  unfold configurable at h
  split at h
  · cases h
  · split at h
    · cases h; assumption
    · cases h

end Sys2Proof.Machine
end

section
/-! PROOFS. What every command does to the contexts, command by command, and O18: every step keeps every schedule on its
mapping and every time in range. -/

namespace Sys2Proof.Machine

open Config (Params)

/-! ## Decoders while they receive -/

/-- What receiving a burst, and counting a frame, leave of a decoder: whether it accepts bursts, its RACH queue, and
`actualMSTiming` at most 63 (R53). -/
structure Decoder.Keeps (d d' : Decoder) : Prop where
  accepting : d'.accepting = d.accepting
  rachQ     : d'.rachQ = d.rachQ
  timing    : d.actualMSTiming.toNat ≤ 63 → d'.actualMSTiming.toNat ≤ 63

theorem Decoder.Keeps.refl (d : Decoder) : d.Keeps d := ⟨rfl, rfl, id⟩

theorem Decoder.Keeps.trans {d d' d'' : Decoder} (h : d.Keeps d') (h' : d'.Keeps d'') : d.Keeps d'' :=
  ⟨h'.accepting.trans h.accepting, h'.rachQ.trans h.rachQ, h'.timing ∘ h.timing⟩

theorem Decoder.keeps_storeRow4 (d : Decoder) (B : Nat) (b : RxBurst) : d.Keeps (d.storeRow4 B b) := ⟨rfl, rfl, id⟩

theorem Decoder.keeps_storeRow8 (d : Decoder) (B : Nat) (b : RxBurst) : d.Keeps (d.storeRow8 B b) := ⟨rfl, rfl, id⟩

theorem Decoder.keeps_decodeBlock (P : Params) (d : Decoder) (ms : Word) (r : Csr) : d.Keeps (d.decodeBlock P ms r) := by
  unfold Decoder.decodeBlock
  split <;> exact ⟨rfl, rfl, id⟩

theorem Decoder.keeps_decodeSpeech (P : Params) (d : Decoder) (ms : Word) (r : Csr) : d.Keeps (d.decodeSpeech P ms r) := by
  unfold Decoder.decodeSpeech
  simp only
  split <;> exact ⟨rfl, rfl, id⟩

/-- The header of a SACCH block brings a timing of at most 63, or none (R290). -/
theorem Decoder.keeps_sacchHeader (d : Decoder) : d.Keeps d.sacchHeader := by
  refine ⟨rfl, rfl, fun h => ?_⟩
  simp only [Decoder.sacchHeader]
  split
  · assumption
  · exact h

/-- The kinds whose decoder receives blocks have the timers (R40, R360). -/
theorem Ctx.redecodes_of_keeps {c : Ctx} {d : Decoder} (hk : c.cfg.kind.hasTimers = true) (hd : c.hasDecoder = true)
    (h : c.dec.Keeps d) : c.Redecodes d :=
  ⟨h.accepting, by rw [h.rachQ]; exact id, .inr h.rachQ, by rw [h.rachQ]; exact fun b hb => .inl hb, h.timing,
    .inl ⟨hk, hd⟩⟩

/-! ## States whose context was reworked -/

/-- `t` is `s` with context `ch` reworked; of the rest, the clock is the same. -/
structure State.Reworks (T : Time → Prop) (ch : BitVec 8) (s t : State) : Prop where
  nowTime : t.nowTime = s.nowTime
  ctx     : ∃ c, t.ctx = s.ctx.set ch.toNat c ∧ (s.getCtx ch).Reworks T c

section
variable {T : Time → Prop} {ch : BitVec 8} {s t u : State}

theorem State.Reworks.setCtx {c : Ctx} (h : (s.getCtx ch).Reworks T c) : s.Reworks T ch (s.setCtx ch c) :=
  ⟨rfl, c, rfl, h⟩

theorem State.Reworks.step {c : Ctx} (h : (s.getCtx ch).Rework T c) : s.Reworks T ch (s.setCtx ch c) :=
  .setCtx (.single h)

theorem State.Reworks.refl (s : State) : s.Reworks T ch s :=
  ⟨rfl, s.getCtx ch, (congrArg State.ctx (State.setCtx_getCtx s ch)).symm, .refl⟩

theorem State.Reworks.trans (hch : ch.toNat < s.ctx.length) (h : s.Reworks T ch t) (h' : t.Reworks T ch u) :
    s.Reworks T ch u := by
  obtain ⟨hn, c, hc, hr⟩ := h
  obtain ⟨hn', c', hc', hr'⟩ := h'
  have hget : t.getCtx ch = c := by simp [State.getCtx, hc, hch]
  refine ⟨hn'.trans hn, c', by rw [hc', hc, List.set_set], hr.trans ?_⟩
  rwa [hget] at hr'

/-- Answers, records and registers are not part of a context. -/
theorem State.Reworks.congr (h : s.Reworks T ch t) (hctx : u.ctx = t.ctx) (hnow : u.nowTime = t.nowTime) :
    s.Reworks T ch u :=
  ⟨hnow.trans h.nowTime, by rw [hctx]; exact h.ctx⟩

theorem State.Reworks.length (h : s.Reworks T ch t) : t.ctx.length = s.ctx.length := by
  obtain ⟨c, hc, -⟩ := h.ctx
  simp [hc]

theorem State.Reworks.cfg (hch : ch.toNat < s.ctx.length) (h : s.Reworks T ch t) :
    (t.getCtx ch).cfg = (s.getCtx ch).cfg := by
  obtain ⟨c, hc, hr⟩ := h.ctx
  rw [← Ctx.Reworks.cfg hr]
  simp [State.getCtx, hc, hch]

theorem State.Reworks.updEnc {f : Encoder → Encoder} (h : (s.getCtx ch).Recodes (f (s.getCtx ch).enc)) :
    s.Reworks T ch (s.updEnc ch f) := .step (.encoder _ _ h)

theorem State.Reworks.updDec {f : Decoder → Decoder} (h : (s.getCtx ch).Redecodes (f (s.getCtx ch).dec)) :
    s.Reworks T ch (s.updDec ch f) := .step (.decoder _ _ h)

/-! ## Sending -/

/-- Sending bursts rolls the context once for each (R247). -/
theorem State.sendBursts_ctx (hch : ch.toNat < s.ctx.length) (bs : List (BitVec 148)) :
    (s.sendBursts hardware ch bs).ctx = s.ctx.set ch.toNat ((Ctx.roll hardware)^[bs.length] (s.getCtx ch)) := by
  induction bs generalizing s with
  | nil => exact congrArg State.ctx (State.setCtx_getCtx s ch).symm
  | cons b bs ih =>
    rw [State.sendBursts_cons, ih (by simpa using hch), State.getCtx_sendBurst_self _ _ _ hch]
    simp

/-- Each iteration of idle fill rolls the context once, on C0 and elsewhere (R293). -/
theorem State.idleStep_ctx (s : State) (ch : BitVec 8) :
    (s.idleStep hardware ch).ctx = s.ctx.set ch.toNat ((s.getCtx ch).roll hardware) := by
  unfold State.idleStep
  split <;> rfl

theorem State.idleSteps_ctx (hch : ch.toNat < s.ctx.length) (n : Nat) :
    (s.idleSteps hardware ch n).ctx = s.ctx.set ch.toNat ((Ctx.roll hardware)^[n] (s.getCtx ch)) := by
  induction n with
  | zero => exact congrArg State.ctx (State.setCtx_getCtx s ch).symm
  | succ n ih =>
    have hget : (s.idleSteps hardware ch n).getCtx ch = (Ctx.roll hardware)^[n] (s.getCtx ch) := by
      simp [State.getCtx, ih, hch]
    rw [State.idleSteps_succ, State.idleStep_ctx, hget, ih, List.set_set, Function.iterate_succ_apply']

theorem State.Reworks.sendBursts (hch : ch.toNat < s.ctx.length) {bs : List (BitVec 148)}
    (h : (s.getCtx ch).cfg.kind.hasRing = true → 4 ∣ bs.length) : s.Reworks T ch (s.sendBursts hardware ch bs) :=
  ⟨(s.sendBursts_frame hardware ch bs).2.1, _, State.sendBursts_ctx hch bs, .single (.roll _ _ fun _ => h)⟩

theorem State.Reworks.sendBurst (h : (s.getCtx ch).cfg.kind.hasRing = false) (b : BitVec 148) :
    s.Reworks T ch (s.sendBurst hardware ch b) :=
  ⟨rfl, _, rfl, .single (.roll _ 1 (by simp [h]))⟩

theorem State.Reworks.idleSteps (hch : ch.toNat < s.ctx.length) {n : Nat}
    (h : (s.getCtx ch).Mapped → (s.getCtx ch).cfg.kind.hasRing = true → 4 ∣ n) :
    s.Reworks T ch (s.idleSteps hardware ch n) :=
  ⟨(s.idleSteps_frame hardware ch n).2.1, _, State.idleSteps_ctx hch n, .single (.roll _ _ h)⟩

theorem State.Reworks.sendFrame (hch : ch.toNat < s.ctx.length) (f : BitVec 184) :
    s.Reworks T ch (s.sendFrame hardware ch f) := by
  refine State.Reworks.trans hch (t := s.updEnc ch fun e => e.codeFrame hardware f) (.updEnc ?_)
    (.sendBursts (by simpa using hch) ?_)
  · exact ⟨rfl, rfl, rfl, rfl, id, id, .inr ⟨rfl, rfl⟩⟩
  · simp [controlBursts]

/-- Composing a slot takes frames off the queues and puts none there (R323). -/
theorem Ctx.recodes_composeSlot {c : Ctx} (h : c.cfg.kind = .tch) :
    c.Recodes ((c.enc.composeSlot hardware).interleaveSlot) := by
  unfold Encoder.composeSlot
  split
  · rename_i hf
    refine ⟨rfl, rfl, rfl, rfl, ?_, ?_, .inl h⟩
    · simp only [Encoder.interleaveSlot, hf, List.length_cons]; omega
    · simp [Encoder.interleaveSlot]
  · split
    · rename_i hs
      refine ⟨rfl, rfl, rfl, rfl, id, ?_, .inl h⟩
      simp only [Encoder.interleaveSlot, hs, List.length_cons]; omega
    · exact ⟨rfl, rfl, rfl, rfl, id, id, .inl h⟩

theorem State.Reworks.sendSlot (hch : ch.toNat < s.ctx.length) (hk : (s.getCtx ch).cfg.kind = .tch) :
    s.Reworks T ch (s.sendSlot hardware ch) := by
  unfold State.sendSlot
  simp only
  have h1 : s.Reworks T ch (s.updEnc ch fun e => (e.composeSlot hardware).interleaveSlot) :=
    .updEnc (Ctx.recodes_composeSlot hk)
  refine State.Reworks.trans hch (State.Reworks.trans hch h1 (.sendBursts (by simpa using hch) ?_)) (.updEnc ?_)
  · simp [Encoder.slotBursts]
  · exact ⟨rfl, rfl, rfl, rfl, id, id, .inr ⟨rfl, rfl⟩⟩

/-! ## Receiving -/

/-- A context whose decoder receives blocks: its kind has the timers and it has a decoder (R40, R360). -/
def State.Receives (s : State) (ch : BitVec 8) : Prop :=
  (s.getCtx ch).cfg.kind.hasTimers = true ∧ (s.getCtx ch).hasDecoder = true

theorem State.Reworks.receives (hch : ch.toNat < s.ctx.length) (h : s.Reworks T ch t) (hr : s.Receives ch) :
    t.Receives ch := by
  have hcfg := h.cfg hch
  exact ⟨by rw [hcfg]; exact hr.1, by rw [Ctx.hasDecoder_congr hcfg]; exact hr.2⟩

theorem State.Reworks.keepDec (hr : s.Receives ch) {f : Decoder → Decoder}
    (h : (s.getCtx ch).dec.Keeps (f (s.getCtx ch).dec)) : s.Reworks T ch (s.updDec ch f) :=
  .updDec (Ctx.redecodes_of_keeps hr.1 hr.2 h)

theorem State.Reworks.setDec (hr : s.Receives ch) {d : Decoder} (h : (s.getCtx ch).dec.Keeps d) :
    s.Reworks T ch (s.updDec ch fun _ => d) := .keepDec hr h

theorem State.Reworks.xcchBlockEnd (hr : s.Receives ch) (t : Time) : s.Reworks T ch (s.xcchBlockEnd hardware ch t) := by
  have hkeep := (⟨rfl, rfl, id⟩ : (s.getCtx ch).dec.Keeps { (s.getCtx ch).dec with
    dC := deinterleave 0 (s.getCtx ch).dec.dI4, dI4 := eraseConsumed 0 (s.getCtx ch).dec.dI4 }).trans
    (Decoder.keeps_decodeBlock hardware _ s.nowMs s.csr)
  unfold State.xcchBlockEnd
  simp only
  split
  · split
    · exact (State.Reworks.setDec hr (hkeep.trans (Decoder.keeps_sacchHeader _))).congr rfl rfl
    · exact (State.Reworks.setDec hr hkeep).congr rfl rfl
  · exact .keepDec hr hkeep

theorem State.Reworks.xcchReceive (hch : ch.toNat < s.ctx.length) (hr : s.Receives ch) (b : RxBurst) :
    s.Reworks T ch (s.xcchReceive hardware ch b) := by
  have h1 : s.Reworks T ch (s.updDec ch fun d => d.storeRow4 (burstIndex (s.getCtx ch) b.time.fn 4) b) :=
    .keepDec hr (Decoder.keeps_storeRow4 _ _ _)
  unfold State.xcchReceive
  simp only
  split
  · exact h1.trans hch (.xcchBlockEnd (h1.receives hch hr) b.time)
  · exact h1

theorem State.Reworks.facchBlock (hr : s.Receives ch) (t : Time) : s.Reworks T ch (s.facchBlock hardware ch t) := by
  have h : s.Reworks T ch (s.updDec ch fun _ => (s.getCtx ch).dec.decodeBlock hardware s.nowMs s.csr) :=
    .keepDec hr (Decoder.keeps_decodeBlock hardware _ _ _)
  unfold State.facchBlock
  simp only
  split <;> exact h.congr rfl rfl

theorem State.Reworks.speechBlock (hr : s.Receives ch) (t : Time) : s.Reworks T ch (s.speechBlock hardware ch t) := by
  have h : s.Reworks T ch (s.updDec ch fun _ => (s.getCtx ch).dec.decodeSpeech hardware s.nowMs s.csr) :=
    .keepDec hr (Decoder.keeps_decodeSpeech hardware _ _ _)
  unfold State.speechBlock
  simp only
  split <;> exact h.congr rfl rfl

theorem State.Reworks.tchBlockEnd (hch : ch.toNat < s.ctx.length) (hr : s.Receives ch) (B : Nat) (t : Time) :
    s.Reworks T ch (s.tchBlockEnd hardware ch B t) := by
  have h : s.Reworks T ch (s.updDec ch fun d =>
      { d with dC := deinterleave (endOffset B).toNat d.dI8, dI8 := eraseConsumed (endOffset B).toNat d.dI8 }) :=
    .keepDec hr ⟨rfl, rfl, id⟩
  unfold State.tchBlockEnd
  simp only
  split
  · exact h.trans hch (.facchBlock (h.receives hch hr) t)
  · exact h.trans hch (.speechBlock (h.receives hch hr) t)

theorem State.Reworks.tchReceive (hch : ch.toNat < s.ctx.length) (hr : s.Receives ch) (b : RxBurst) :
    s.Reworks T ch (s.tchReceive hardware ch b) := by
  have h : s.Reworks T ch (s.updDec ch fun d => d.storeRow8 (burstIndex (s.getCtx ch) b.time.fn 8) b) :=
    .keepDec hr (Decoder.keeps_storeRow8 _ _ _)
  unfold State.tchReceive
  simp only
  split
  · exact h.trans hch (.tchBlockEnd (h.length ▸ hch) (h.receives hch hr) _ b.time)
  · exact h

theorem State.Reworks.rachEnqueue (hk : (s.getCtx ch).cfg.kind = .rach) {b : RxBurst}
    (hb : b.time.legal hardware = true) : s.Reworks T ch (s.rachEnqueue hardware ch b) := by
  unfold State.rachEnqueue
  split
  · rename_i hq
    refine .updDec ⟨rfl, fun _ => ?_, .inl hk, fun x hx => ?_, id, .inr ⟨rfl, rfl, rfl⟩⟩
    · simpa using hq
    · rcases List.mem_append.1 hx with hx | hx
      · exact .inl hx
      · exact .inr (by rw [List.mem_singleton.1 hx]; exact hb)
  · exact (State.Reworks.refl s).congr rfl rfl

/-- Counting a frame changes nothing but the FER (R351, R352). -/
theorem Ctx.redecodes_fer (c : Ctx) (f : BitVec 32) : c.Redecodes { c.dec with fer := f } :=
  ⟨rfl, id, .inr rfl, fun _ hb => .inl hb, id, .inr ⟨rfl, rfl, rfl⟩⟩

theorem State.Reworks.rachDecode (s : State) (ch : BitVec 8) (b : RxBurst) :
    s.Reworks T ch (s.rachDecode hardware ch b) := by
  unfold State.rachDecode
  split
  · exact (State.Reworks.updDec (Ctx.redecodes_fer _ _)).congr rfl rfl
  · exact .updDec (Ctx.redecodes_fer _ _)

theorem State.Reworks.acceptBurst (hch : ch.toNat < s.ctx.length) (hd : (s.getCtx ch).hasDecoder = true) {b : RxBurst}
    (hb : b.time.legal hardware = true) : s.Reworks T ch (s.acceptBurst hardware ch b) := by
  unfold State.acceptBurst
  cases hk : (s.getCtx ch).cfg.kind with
  | rach => exact .rachEnqueue hk hb
  | xcch | sacch => exact .xcchReceive hch ⟨by rw [hk]; rfl, hd⟩ b
  | tch => exact .tchReceive hch ⟨by rw [hk]; rfl, hd⟩ b
  | none | sch | fcch => exact .refl s

end

/-! ## Everything a command can do to the contexts -/

/-- The times a command samples from the clock: `NOW_TIME`, now or when it started (R392). -/
def State.Samples (s : State) (t : Time) : Prop := t = s.t0 ∨ t = s.nowTime

/-- The lists of contexts that a command can leave behind. -/
inductive State.ContextsAfter (s : State) : List Ctx → Prop where
  /-- No context changes. -/
  | same : s.ContextsAfter s.ctx
  /-- Every context is reset (R276). -/
  | reset : s.ContextsAfter (Ctx.allReset hardware)
  /-- One context is torn down (R273). -/
  | deconfig (ch : BitVec 8) : s.ContextsAfter (s.ctx.set ch.toNat .reset)
  /-- One context is installed, its mappings well-formed (R272). -/
  | config (ch : BitVec 8) (w0 : Word) (tx rx : MapRecord) (k : Kind) (h : configurable hardware w0 tx rx = some k) :
      s.ContextsAfter (s.ctx.set ch.toNat ((configured k w0 tx rx).reseat hardware s.nowTime))
  /-- One configured context is reworked. -/
  | rework (ch : BitVec 8) (c : Ctx) (hrun : (s.getCtx ch).cfg.running = true)
      (h : (s.getCtx ch).Reworks s.Samples c) : s.ContextsAfter (s.ctx.set ch.toNat c)

/-- What a command leaves of the contexts, the clock and the sampled time of a held command. -/
structure State.Follows (s t : State) : Prop where
  nowTime  : t.nowTime = s.nowTime
  contexts : s.ContextsAfter t.ctx
  held     : ∀ h, t.held = some h → h.t0 = s.t0

section
variable {s t u : State} {ch : BitVec 8} {o : Opcode} {checks : List (Bool × FaultCode)}

theorem State.Follows.complete (hn : t.nowTime = s.nowTime) (hc : s.ContextsAfter t.ctx) (ws : List Word) :
    s.Follows (t.complete o ws) := ⟨hn, hc, nofun⟩

theorem State.Follows.reworks (hrun : (s.getCtx ch).cfg.running = true) (h : s.Reworks s.Samples ch t) (ws : List Word) :
    s.Follows (t.complete o ws) := by
  obtain ⟨c, hc, hr⟩ := h.ctx
  exact .complete h.nowTime (hc ▸ .rework ch c hrun hr) ws

/-- An effect that completes: `u` is the state it answers from. -/
theorem State.Follows.completed {ws : List Word} (h : (Host.Outcome.next (u.complete o ws) : Result) = .next t)
    (hn : u.nowTime = s.nowTime) (hc : s.ContextsAfter u.ctx) : s.Follows t := by
  cases h
  exact .complete hn hc ws

theorem State.Follows.reworked {ws : List Word} (h : (Host.Outcome.next (u.complete o ws) : Result) = .next t)
    (hrun : (s.getCtx ch).cfg.running = true) (hr : s.Reworks s.Samples ch u) : s.Follows t := by
  cases h
  exact .reworks hrun hr ws

/-- A command that passes its checks may do what its effect does; blocked or faulting it touches no context (R384, R385). -/
theorem State.Follows.command {e : Result} (h : s.command o ch checks e = .next t)
    (he : firstFault checks = none → e = .next t → s.Follows t) : s.Follows t := by
  rcases State.command_cases h with ⟨-, rfl⟩ | ⟨-, f, -, rfl⟩ | ⟨-, hf, hn⟩
  · exact ⟨rfl, .same, nofun⟩
  · exact ⟨rfl, .same, nofun⟩
  · exact he hf hn

/-- A command that only answers touches no context. -/
theorem State.Follows.pure {ws : List Word} (h : s.command o ch checks (.next (s.complete o ws)) = .next t) :
    s.Follows t :=
  .command h fun _ hn => .completed hn rfl .same

/-- A command that waits has its effect or holds (R392). -/
theorem State.Follows.waits {i : Instr} {w : Time} {done : State} (h : s.waitToSend hardware i w done = .next t)
    (hd : s.Follows done) : s.Follows t := by
  rcases State.waitToSend_cases h with ⟨-, rfl⟩ | ⟨-, rfl⟩
  · exact hd
  · exact ⟨rfl, .same, fun h hh => by cases hh; rfl⟩

/-- A check that is passed says what it checks. -/
theorem check_passed {p : Bool × FaultCode} (h : firstFault checks = none) (hm : p ∈ checks) : p.1 = false :=
  firstFault_eq_none.1 h p hm

theorem running_of_checks (h : firstFault checks = none) (hm : s.notRunning ch ∈ checks) :
    (s.getCtx ch).cfg.running = true := by
  simpa [State.notRunning] using check_passed h hm

theorem kind_of_checks {k : Kind} (h : firstFault checks = none) (hm : s.notKind ch k ∈ checks) :
    (s.getCtx ch).cfg.kind = k := by
  simpa [State.notKind] using check_passed h hm

/-! ## Command by command -/

theorem execReset_follows {arg : BitVec 16} (h : execReset ch arg s = .next t) : s.Follows t :=
  .completed h rfl .reset

theorem execCsrWrite_follows {arg : BitVec 16} {v : Word} (h : execCsrWrite ch arg v s = .next t) : s.Follows t :=
  .command h fun _ hn => .completed hn rfl .same

theorem execCsrRead_follows {arg : BitVec 16} (h : execCsrRead ch arg s = .next t) : s.Follows t := by
  unfold execCsrRead at h
  split at h
  · exact .completed h rfl .same
  · split at h <;> cases h <;> exact ⟨rfl, .same, nofun⟩

theorem execChConfig_follows {arg : BitVec 16} {w0 : Word} {tx rx : MapRecord}
    (h : execChConfig ch arg w0 tx rx s = .next t) : s.Follows t :=
  .command h fun hf hn => by
    have hc : ((s.getCtx ch).cfg.running || (configurable hardware w0 tx rx).isNone) = false :=
      check_passed hf (p := ((s.getCtx ch).cfg.running || (configurable hardware w0 tx rx).isNone, .configError)) (by simp)
    obtain ⟨k, hk⟩ : ∃ k, configurable hardware w0 tx rx = some k := by
      simpa [Option.isSome_iff_exists] using (Bool.or_eq_false_iff.1 hc).2
    rw [hk] at hn
    exact .completed hn rfl (.config ch w0 tx rx k hk)

theorem execChDeconfig_follows {arg : BitVec 16} (h : execChDeconfig ch arg s = .next t) : s.Follows t :=
  .command h fun _ hn => .completed hn rfl (.deconfig ch)

/-- Resync, wait, then do what reworks the context (R249, R283, R291, R324), or nothing where the encoder is closed. -/
theorem State.Follows.sends {i : Instr} {c1 : Ctx} {done : State} (hrun : (s.getCtx ch).cfg.running = true)
    (hc : (s.getCtx ch).Reworks s.Samples c1) (hd : (s.setCtx ch c1).Reworks s.Samples ch done) {w : Time}
    (h : s.waitToSend hardware i w (done.complete o []) = .next t) : s.Follows t :=
  .waits h (.reworks hrun ((State.Reworks.setCtx hc).trans (State.lt_length_of_running hrun) hd) [])

theorem execL2Data_follows {arg : BitVec 16} {frame : List Word} (h : execL2Data ch arg frame s = .next t) :
    s.Follows t := by
  refine .command h fun hf hn => ?_
  have hrun := running_of_checks (s := s) (ch := ch) hf (by simp)
  have hfull : facchFull hardware (s.getCtx ch) = false := 
    check_passed (p := (facchFull hardware (s.getCtx ch), .queueOverflow)) hf (by simp)
  split at hn
  · rename_i hk
    unfold facchEnqueue at hn
    split at hn
    · rename_i hact
      refine .reworked hn hrun (.updEnc ⟨rfl, rfl, rfl, rfl, fun hq => ?_, id, .inl hk⟩)
      have : (s.getCtx ch).enc.facchQ.length ≠ 8 := by simpa [facchFull, hk, hact] using hfull
      simp only [List.length_append, List.length_singleton]
      omega
    · exact .completed hn rfl .same
  · unfold xcchSend at hn
    split at hn
    · refine .sends hrun (.single (.resync _ _ (.inl rfl))) (.sendFrame ?_ _) hn
      simpa using State.lt_length_of_running hrun
    · exact .completed hn rfl .same

theorem execL2Establish_follows {arg : BitVec 16} (h : execL2Establish ch arg s = .next t) : s.Follows t :=
  .command h fun hf hn => .reworked hn (running_of_checks hf (by simp)) (.step (.opened _ _ _ _ _ (.inr rfl)))

theorem execL2Release_follows {arg : BitVec 16} (h : execL2Release ch arg s = .next t) : s.Follows t :=
  .command h fun hf hn => .reworked hn (running_of_checks hf (by simp)) <|
    .setCtx (.tail (.single (.closeEnc _)) (.closeDec _ _ _))

theorem execL2Error_follows {arg : BitVec 16} (h : execL2Error ch arg s = .next t) : s.Follows t :=
  .command h fun hf hn => .reworked hn (running_of_checks hf (by simp)) (.step (.closeEnc _))

theorem execRxBurst_follows {arg : BitVec 16} {time meas : Word} {sym : List Word}
    (h : execRxBurst ch arg time meas sym s = .next t) : s.Follows t := by
  refine .command h fun hf hn => ?_
  have hrun := running_of_checks (s := s) (ch := ch) hf (by simp)
  have htime : legalTime hardware time = true := by
    simpa using check_passed (p := (!legalTime hardware time, .badArgument)) hf (by simp)
  have hdec : (s.getCtx ch).hasDecoder = true := by
    simpa using check_passed (p := (!(s.getCtx ch).hasDecoder, .wrongKind)) hf (by simp)
  split at hn
  · exact .reworked hn hrun (.acceptBurst (State.lt_length_of_running hrun) hdec (timeOf_legal htime))
  · exact .completed hn rfl .same

theorem execRachService_follows {arg : BitVec 16} (h : execRachService ch arg s = .next t) : s.Follows t := by
  refine .command h fun hf hn => ?_
  have hrun := running_of_checks (s := s) (ch := ch) hf (by simp)
  have hkind : (s.getCtx ch).cfg.kind = .rach := by
    simpa using check_passed (p := ((s.getCtx ch).cfg.kind != .rach, .wrongKind)) hf (by simp)
  split at hn
  · exact .completed hn rfl .same
  · rename_i b q hq
    refine .reworked hn hrun (.trans (State.lt_length_of_running hrun) (.updDec ?_) (.rachDecode _ ch b))
    refine ⟨rfl, fun hl => ?_, .inl hkind, fun x hx => .inl (by simp [hq, hx]), id, .inr ⟨rfl, rfl, rfl⟩⟩
    rw [hq, List.length_cons] at hl
    exact (Nat.le_succ _).trans hl

theorem execIdleFill_follows {arg : BitVec 16} (h : execIdleFill ch arg s = .next t) : s.Follows t :=
  .command h fun hf hn =>
    have hrun := running_of_checks hf (by simp)
    .reworked hn hrun (.idleSteps (State.lt_length_of_running hrun) Ctx.Mapped.txM_blocks)

theorem sendOne_follows {i : Instr} {bits : BitVec 148} (hrun : (s.getCtx ch).cfg.running = true)
    (hk : (s.getCtx ch).cfg.kind.hasRing = false) (h : sendOne hardware o i ch bits s = .next t) : s.Follows t := by
  unfold sendOne at h
  split at h
  · have hc : (s.getCtx ch).Reworks s.Samples _ := .single (.resync _ s.t0 (.inl rfl))
    refine .sends hrun hc (.sendBurst ?_ bits) h
    rw [State.getCtx_setCtx_self _ _ (State.lt_length_of_running hrun)]
    simpa using hk
  · exact .completed h rfl .same

theorem execSchSend_follows {arg : BitVec 16} {data : Word} (h : execSchSend ch arg data s = .next t) : s.Follows t :=
  .command h fun hf hn => sendOne_follows (running_of_checks hf (by simp))
    (by rw [kind_of_checks (s := s) (ch := ch) (k := .sch) hf (by simp)]; rfl) hn

theorem execFcchSend_follows {arg : BitVec 16} (h : execFcchSend ch arg s = .next t) : s.Follows t :=
  .command h fun hf hn => sendOne_follows (running_of_checks hf (by simp))
    (by rw [kind_of_checks (s := s) (ch := ch) (k := .fcch) hf (by simp)]; rfl) hn

theorem execTchSendSlot_follows {arg : BitVec 16} (h : execTchSendSlot ch arg s = .next t) : s.Follows t := by
  refine .command h fun hf hn => ?_
  have hrun := running_of_checks (s := s) (ch := ch) hf (by simp)
  have hkind := kind_of_checks (s := s) (ch := ch) (k := .tch) hf (by simp)
  have hlen := State.lt_length_of_running hrun
  split at hn
  · have hcap : (s.getCtx ch).Recodes ((s.getCtx ch).capSpeech s.csr.maxSpeechLatency).enc :=
      ⟨rfl, rfl, rfl, rfl, id, fun hq => by simp only [Ctx.capSpeech, latencyCap, List.length_drop]; omega, .inl hkind⟩
    have hc : (s.getCtx ch).Reworks s.Samples _ :=
      .tail (.single (.encoder _ _ hcap)) (.resync _ s.t0 (.inl rfl))
    refine .sends hrun hc (.sendSlot (by simpa using hlen) ?_) hn
    rw [State.getCtx_setCtx_self _ _ hlen]
    simpa using hkind
  · exact .completed hn rfl .same

/-- A push onto a full queue drops a frame first (R326). -/
theorem length_pushSpeech_le {q : List (BitVec 260)} (h : q.length ≤ 16) (x : BitVec 260) :
    (pushSpeech hardware q x).length ≤ 16 := by
  unfold pushSpeech
  rw [List.length_append, List.length_singleton]
  split
  · rw [List.length_drop]; omega
  · rename_i hne
    have hne : q.length ≠ 16 := hne
    omega

theorem execTchSpeechPush_follows {arg : BitVec 16} {frame : List Word} (h : execTchSpeechPush ch arg frame s = .next t) :
    s.Follows t := by
  refine .command h fun hf hn => ?_
  have hkind := kind_of_checks (s := s) (ch := ch) (k := .tch) hf (by simp)
  split at hn
  · refine .reworked hn (running_of_checks hf (by simp)) (.updEnc ⟨rfl, rfl, rfl, rfl, id, fun hq => ?_, .inl hkind⟩)
    exact length_pushSpeech_le hq _
  · exact .completed hn rfl .same

theorem execResync_follows {arg : BitVec 16} (h : execResync ch arg s = .next t) : s.Follows t :=
  .command h fun hf hn => .reworked hn (running_of_checks hf (by simp)) (.step (.resync _ _ (.inr rfl)))

theorem execWaitToSend_follows {arg : BitVec 16} (h : execWaitToSend ch arg s = .next t) : s.Follows t :=
  .command h fun _ hn => .waits hn (.complete rfl .same [])

theorem execPhyRead_follows {arg : BitVec 16} (h : execPhyRead ch arg s = .next t) : s.Follows t :=
  .command h fun hf hn => .reworked hn (running_of_checks hf (by simp))
    (.updDec ⟨rfl, id, .inr rfl, fun _ hb => .inl hb, id, .inr ⟨rfl, rfl, rfl⟩⟩)

theorem execFerGood_follows {arg : BitVec 16} (h : execFerGood ch arg s = .next t) : s.Follows t :=
  .command h fun hf hn => .reworked hn (running_of_checks hf (by simp)) (.updDec (Ctx.redecodes_fer _ _))

theorem execFerBad_follows {arg : BitVec 16} (h : execFerBad ch arg s = .next t) : s.Follows t :=
  .command h fun hf hn => .reworked hn (running_of_checks hf (by simp)) (.updDec (Ctx.redecodes_fer _ _))

/-- Every command leaves contexts, clock and sampled time so. -/
theorem exec_follows {i : Instr} (h : exec i s = .next t) : s.Follows t := by
  cases i with
  | reset ch arg => exact execReset_follows (ch := ch) (arg := arg) h
  | csrWrite => exact execCsrWrite_follows h
  | csrRead => exact execCsrRead_follows h
  | chConfig => exact execChConfig_follows h
  | chDeconfig => exact execChDeconfig_follows h
  | l2Data => exact execL2Data_follows h
  | l2Establish => exact execL2Establish_follows h
  | l2Release => exact execL2Release_follows h
  | l2Error => exact execL2Error_follows h
  | rxBurst => exact execRxBurst_follows h
  | rachService => exact execRachService_follows h
  | idleFill => exact execIdleFill_follows h
  | schSend => exact execSchSend_follows h
  | fcchSend => exact execFcchSend_follows h
  | tchSendSlot => exact execTchSendSlot_follows h
  | tchSpeechPush => exact execTchSpeechPush_follows h
  | resync => exact execResync_follows h
  | waitToSend => exact execWaitToSend_follows h
  | phyRead => exact execPhyRead_follows h
  | ferGood => exact execFerGood_follows h
  | ferBad => exact execFerBad_follows h
  | nop | chStatus | lsb8msb | parEncode | parSyndrome | rachCheck | xcchCode | xcchDecode | schCode | convEncode
  | viterbiDecode | xcchInterleave | xcchDeinterleave | tchInterleave | tchDeinterleave | burstMap | burstUnmap
  | tchSpeechEncode | tchSpeechDecode | fnAdd | fnDelta | timeCmp | mapReverse | mapRoll => exact .pure h

/-! ## What a command keeps -/

theorem State.everyCtx_iff {p : Ctx → Bool} : s.everyCtx p = true ↔ ∀ c ∈ s.ctx, p c = true := List.all_eq_true

theorem State.getCtx_mem_or_reset (s : State) (ch : BitVec 8) : s.getCtx ch ∈ s.ctx ∨ s.getCtx ch = .reset := by
  rw [State.getCtx, List.getD_eq_getElem?_getD]
  rcases h : s.ctx[ch.toNat]? with _ | c
  · exact .inr rfl
  · exact .inl (List.mem_of_getElem? h)

/-- A property of contexts that the reset context, a context just configured and every rework have, every command keeps. -/
theorem State.Follows.everyCtx (h : s.Follows t) {p : Ctx → Bool} (hs : s.everyCtx p = true) (hreset : p .reset = true)
    (hconf : ∀ w0 tx rx k, configurable hardware w0 tx rx = some k →
      p ((configured k w0 tx rx).reseat hardware s.nowTime) = true)
    (hwork : ∀ c c', c.cfg.running = true → p c = true → c.Reworks s.Samples c' → p c' = true) :
    t.everyCtx p = true := by
  have hmem : ∀ (ch : BitVec 8) (c : Ctx), p c = true → ∀ x ∈ s.ctx.set ch.toNat c, p x = true := fun ch c hc x hx =>
    (List.mem_or_eq_of_mem_set hx).elim (State.everyCtx_iff.1 hs x) fun e => e ▸ hc
  rw [State.everyCtx_iff]
  have hctx := h.contexts
  generalize t.ctx = l at hctx ⊢
  cases hctx with
  | same => exact State.everyCtx_iff.1 hs
  | reset => exact fun c hc => by rw [List.eq_of_mem_replicate hc]; exact hreset
  | deconfig ch => exact hmem ch _ hreset
  | config ch w0 tx rx k hk => exact hmem ch _ (hconf w0 tx rx k hk)
  | rework ch c hrun hr =>
    have hp : p (s.getCtx ch) = true := by
      rcases s.getCtx_mem_or_reset ch with hc | hc
      · exact State.everyCtx_iff.1 hs _ hc
      · rw [hc]; exact hreset
    exact hmem ch _ (hwork _ c hrun hp hr)

theorem Ctx.reset_onSchedule : (Ctx.reset.legal && Ctx.reset.onSchedule) = true := by
  have h : Ctx.reset.legal = true := by
    rw [Ctx.legal, if_neg (by decide)]
    exact beq_self_eq_true _
  rw [h]
  rfl

/-- Legal contexts on schedule stay so under every command. -/
theorem State.Follows.onSchedule (h : s.Follows t) (hs : s.everyCtx (fun c => c.legal && c.onSchedule) = true) :
    t.everyCtx (fun c => c.legal && c.onSchedule) = true := by
  refine h.everyCtx hs Ctx.reset_onSchedule (fun w0 tx rx k hk => ?_) fun c c' hrun hc hr => ?_
  · have hm := mapped_of_configurable hk
    rw [Bool.and_eq_true]
    exact ⟨Ctx.legal_reseat rfl (Ctx.legal_configured rfl hm) _, Ctx.onSchedule_reseat hm _⟩
  · rw [Bool.and_eq_true] at hc ⊢
    exact ⟨Ctx.Reworks.legal hr hrun hc.1, Ctx.Reworks.onSchedule hr ((Ctx.legal_of_running hrun).1 hc.1).1 hc.2⟩

theorem State.timesLegal_iff : s.timesLegal = true ↔ s.nowTime.legal hardware = true ∧
    (∀ h, s.held = some h → h.t0.legal hardware = true) ∧ s.everyCtx Ctx.timesLegal = true := by
  simp [State.timesLegal, Time.legal_hardware, Option.all_eq_true, and_assoc]

/-- The times that a command samples are those the state holds. -/
theorem State.t0_legal (h : s.timesLegal = true) : s.t0.legal hardware = true := by
  obtain ⟨hn, hh, -⟩ := State.timesLegal_iff.1 h
  unfold State.t0
  split
  · exact hh _ ‹_›
  · exact hn

/-- Times in range stay so under every command. -/
theorem State.Follows.timesLegal (h : s.Follows t) (hs : s.timesLegal = true) : t.timesLegal = true := by
  have ht0 := State.t0_legal hs
  obtain ⟨hn, -, hc⟩ := State.timesLegal_iff.1 hs
  refine State.timesLegal_iff.2 ⟨by rwa [h.nowTime], fun x hx => by rwa [h.held x hx], ?_⟩
  refine h.everyCtx hc rfl (fun w0 tx rx k _ => Ctx.timesLegal_reseat rfl hn) fun c c' _ hp hr => ?_
  exact Ctx.Reworks.timesLegal hr (fun t ht => ht.elim (· ▸ ht0) (· ▸ hn)) hp

/-! ## What a step keeps -/

/-- Both parts of O18 as one property of two states. -/
def State.KeepsSchedules (s t : State) : Prop :=
  (s.everyCtx (fun c => c.legal && c.onSchedule) = true → t.everyCtx (fun c => c.legal && c.onSchedule) = true) ∧
  (s.timesLegal = true → t.timesLegal = true)

theorem State.Follows.keepsSchedules (h : s.Follows t) : s.KeepsSchedules t := ⟨h.onSchedule, h.timesLegal⟩

/-- The command port and the agents are not part of what is kept. -/
theorem illegalCommand_keepsSchedules {f : FaultCode} {w : Word} (h : illegalCommand f w s = .next t) :
    s.KeepsSchedules t := by
  unfold illegalCommand at h
  split at h <;> cases h <;> exact State.Follows.keepsSchedules ⟨rfl, .same, nofun⟩

theorem processorTurn_keepsSchedules (h : processorTurn exec s = .next t) : s.KeepsSchedules t := by
  unfold processorTurn at h
  split at h
  · exact (exec_follows h).keepsSchedules
  · split at h
    · exact (exec_follows h).keepsSchedules
    · exact (illegalCommand_keepsSchedules h :)
    · exact (illegalCommand_keepsSchedules h :)
    · cases h; exact ⟨id, id⟩

theorem everyCtx_rst {p : Ctx → Bool} (h : p .reset = true) : (s.rst hardware).everyCtx p = true := by
  rw [State.everyCtx_iff, State.rst_ctx]
  exact fun c hc => by rw [List.eq_of_mem_replicate hc]; exact h

theorem agentTurn_keepsSchedules {a : Turn} (h : agentTurn hardware exec a s = .next t) : s.KeepsSchedules t := by
  cases a with
  | processor => exact processorTurn_keepsSchedules h
  | clock time ms =>
    simp only [agentTurn, clockTurn] at h
    split at h
    · rename_i hc
      cases h
      refine ⟨id, fun hs => ?_⟩
      obtain ⟨-, hh, hctx⟩ := State.timesLegal_iff.1 hs
      exact State.timesLegal_iff.2 ⟨(Bool.and_eq_true _ _ ▸ hc).1, hh, hctx⟩
    · cases h
  | rst =>
    cases h
    refine ⟨fun _ => everyCtx_rst Ctx.reset_onSchedule, fun hs => ?_⟩
    exact State.timesLegal_iff.2 ⟨(State.timesLegal_iff.1 hs).1, nofun, everyCtx_rst rfl⟩
  | issue words => cases h; exact ⟨id, id⟩

end

end Sys2Proof.Machine

namespace Sys2Proof

open Machine

/-- Settles O18: each step is one turn of one agent, and a command reworks a context only in ways that keep its schedule. -/
theorem stepKeepsSchedules : Obligations.StepKeepsSchedules := by
  intro s t h
  unfold step machineTurn at h
  split at h
  · exact processorTurn_keepsSchedules h
  · exact (agentTurn_keepsSchedules h :)

end Sys2Proof
end

section
/-! PROOFS. O54: the bit-serial parity registers (R160, R161) divide polynomials over GF(2). The register holds a polynomial
of degree below `r`; one bit through it multiplies by `x` and adds, modulo the generator. -/

namespace Sys2Proof.Machine

open Polynomial

/-! ## The polynomial of a bit vector (R12) -/

/-- The polynomial over GF(2) whose coefficients are the bits of `v`. -/
noncomputable def polyOf {n : Nat} (v : BitVec n) : (ZMod 2)[X] :=
  ∑ i ∈ Finset.range n, if v.getLsbD i then X ^ i else 0

theorem coeff_polyOf {n : Nat} (v : BitVec n) (i : Nat) : (polyOf v).coeff i = if v.getLsbD i then 1 else 0 := by
  have h : ∀ j, (if v.getLsbD j then (X : (ZMod 2)[X]) ^ j else 0).coeff i =
      if i = j then (if v.getLsbD i then 1 else 0) else 0 := by
    intro j
    by_cases hj : i = j
    · subst hj; split <;> simp
    · split <;> simp [hj, coeff_X_pow]
  rw [polyOf, finsetSum_coeff, Finset.sum_congr rfl fun j _ => h j, Finset.sum_ite_eq]
  split
  · rfl
  · rename_i hi
    rw [BitVec.getLsbD_of_ge v i (by simpa using hi)]
    rfl

theorem isPolyOf_iff {n : Nat} {v : BitVec n} {p : (ZMod 2)[X]} : IsPolyOf v p ↔ p = polyOf v := by
  rw [Polynomial.ext_iff]
  exact forall_congr' fun i => by rw [coeff_polyOf]

theorem polyOf_injective {n : Nat} {u v : BitVec n} (h : polyOf u = polyOf v) : u = v := by
  refine BitVec.eq_of_getLsbD_eq fun i _ => ?_
  have hc := congrArg (coeff · i) h
  simp only [coeff_polyOf] at hc
  cases hu : u.getLsbD i <;> cases hv : v.getLsbD i <;> simp [hu, hv] at hc ⊢

@[simp] theorem polyOf_zero (n : Nat) : polyOf 0#n = 0 := by simp [polyOf]

theorem polyOf_xor {n : Nat} (u v : BitVec n) : polyOf (u ^^^ v) = polyOf u + polyOf v := by
  ext i
  rw [coeff_add, coeff_polyOf, coeff_polyOf, coeff_polyOf, BitVec.getLsbD_xor]
  cases u.getLsbD i <;> cases v.getLsbD i <;> simp [CharTwo.add_self_eq_zero]

theorem degree_polyOf_lt {n : Nat} (v : BitVec n) : (polyOf v).degree < n := by
  refine (degree_lt_iff_coeff_zero _ _).2 fun i hi => ?_
  rw [coeff_polyOf, BitVec.getLsbD_of_ge v i hi]
  rfl

/-- A bit as a polynomial. -/
noncomputable def bitPoly (b : Bool) : (ZMod 2)[X] := if b then 1 else 0

@[simp] theorem bitPoly_true : bitPoly true = 1 := rfl
@[simp] theorem bitPoly_false : bitPoly false = 0 := rfl

theorem bitPoly_xor (a b : Bool) : bitPoly (xor a b) = bitPoly a + bitPoly b := by
  cases a <;> cases b <;> simp [CharTwo.add_self_eq_zero]

theorem coeff_bitPoly_mul_X_pow (b : Bool) (r i : Nat) :
    (bitPoly b * X ^ r).coeff i = if b = true ∧ i = r then 1 else 0 := by
  cases b <;> simp [coeff_X_pow]

/-- A shift multiplies by `x` and drops the term of degree `r`. -/
theorem polyOf_shiftLeft_one {r : Nat} (v : BitVec r) :
    polyOf (v <<< 1) = X * polyOf v + bitPoly v.msb * X ^ r := by
  ext i
  rw [coeff_add, coeff_polyOf, coeff_bitPoly_mul_X_pow, BitVec.getLsbD_shiftLeft, BitVec.msb_eq_getLsbD_last]
  cases i with
  | zero =>
    have h0 : ¬(v.getLsbD (r - 1) = true ∧ 0 = r) := by rintro ⟨h, rfl⟩; simp at h
    simp [h0]
  | succ i =>
    rw [coeff_X_mul, coeff_polyOf]
    rcases Nat.lt_trichotomy (i + 1) r with h | h | h
    · simp [h, show i + 1 ≠ r by omega]
    · subst h
      rw [Nat.add_sub_cancel]
      cases v.getLsbD i <;> simp only [Nat.lt_irrefl, CharTwo.add_self_eq_zero, reduceIte, decide_false, Bool.false_and,
        Bool.false_eq_true, false_and, and_self]
    · simp [show ¬ i + 1 < r by omega, show i + 1 ≠ r by omega, BitVec.getLsbD_of_ge v i (by omega)]

/-- Concatenation (R8): the first vector's polynomial is shifted past the second. -/
theorem polyOf_append {n m : Nat} (u : BitVec n) (v : BitVec m) : polyOf (u ++ v) = polyOf u * X ^ m + polyOf v := by
  ext i
  rw [coeff_add, coeff_mul_X_pow', coeff_polyOf, coeff_polyOf, coeff_polyOf, BitVec.getLsbD_append]
  split
  · simp [show ¬ m ≤ i by omega]
  · rw [BitVec.getLsbD_of_ge v i (by omega)]
    simp [show m ≤ i by omega]

/-- Horner's rule over the first `n` values of `f`. -/
theorem foldl_horner (f : Nat → Bool) (n : Nat) :
    ((List.range n).map f).foldl (fun p b => X * p + bitPoly b) 0 =
      ∑ i ∈ Finset.range n, bitPoly (f i) * X ^ (n - 1 - i) := by
  induction n with
  | zero => rfl
  | succ n ih =>
    rw [List.range_succ, List.map_append, List.foldl_append, ih, Finset.sum_range_succ]
    simp only [List.map_cons, List.map_nil, List.foldl_cons, List.foldl_nil, Nat.add_sub_cancel, Nat.sub_self, pow_zero,
      mul_one, Finset.mul_sum]
    congr 1
    refine Finset.sum_congr rfl fun i hi => ?_
    have hi : i < n := Finset.mem_range.1 hi
    rw [show n - i = n - 1 - i + 1 by omega, pow_succ]
    ring

/-- The bits of a vector, first element first, are read by Horner's rule. -/
theorem polyOf_eq_foldl {n : Nat} (v : BitVec n) :
    polyOf v = (bitList v).foldl (fun p b => X * p + bitPoly b) 0 := by
  rw [bitList, foldl_horner, polyOf, ← Finset.sum_range_reflect]
  refine Finset.sum_congr rfl fun i hi => ?_
  have hi : i < n := Finset.mem_range.1 hi
  rw [BitVec.getMsbD_eq_getLsbD]
  cases v.getLsbD (n - 1 - i) <;> simp [hi]

/-! ## One bit through a register -/

/-- The generator polynomial of degree `r` whose lower terms are `g`. -/
noncomputable def genPoly {r : Nat} (g : BitVec r) : (ZMod 2)[X] := X ^ r + polyOf g

theorem genPoly_monic {r : Nat} (g : BitVec r) : (genPoly g).Monic := monic_X_pow_add (degree_polyOf_lt g)

theorem degree_genPoly {r : Nat} (g : BitVec r) : (genPoly g).degree = r := by
  rw [genPoly, degree_add_eq_left_of_degree_lt, degree_X_pow]
  rw [degree_X_pow]
  exact degree_polyOf_lt g

/-- A register that feeds back the generator adds a multiple of the generator polynomial or nothing. -/
theorem polyOf_feedback {r : Nat} (g v : BitVec r) (b : Bool) :
    polyOf (if b then v ^^^ g else v) + bitPoly b * X ^ r = polyOf v + bitPoly b * genPoly g := by
  cases b
  · simp
  · rw [if_pos rfl, polyOf_xor, bitPoly_true, genPoly]
    ring

/-- The parity register multiplies by `x` and adds the bit at degree `r`, modulo the generator (R160). -/
theorem genPoly_dvd_remainderStep {r : Nat} (g reg : BitVec r) (d : Bool) :
    genPoly g ∣ polyOf (remainderStep g reg d) - (X * polyOf reg + bitPoly d * X ^ r) := by
  refine ⟨bitPoly (xor reg.msb d), ?_⟩
  have h := polyOf_feedback g (reg <<< 1) (xor reg.msb d)
  rw [polyOf_shiftLeft_one, bitPoly_xor] at h
  rw [remainderStep, bitPoly_xor]
  have h2 : (2 : (ZMod 2)[X]) = 0 := CharTwo.two_eq_zero
  linear_combination h - bitPoly d * X ^ r * h2

/-- A shift makes room for a bit at degree 0. -/
theorem polyOf_shiftLeft_one_or {r : Nat} (v : BitVec (r + 1)) (d : Bool) :
    polyOf ((v <<< 1) ||| (BitVec.ofBool d).setWidth (r + 1)) = polyOf (v <<< 1) + bitPoly d := by
  ext i
  have hd : (bitPoly d).coeff i = if d = true ∧ i = 0 then 1 else 0 := by
    simpa using coeff_bitPoly_mul_X_pow d 0 i
  rw [coeff_add, coeff_polyOf, coeff_polyOf, hd, BitVec.getLsbD_or, BitVec.getLsbD_setWidth]
  cases i with
  | zero => simp
  | succ i => simp

/-- The syndrome register multiplies by `x` and adds the bit at degree 0, modulo the generator (R161). -/
theorem genPoly_dvd_syndromeStep {r : Nat} (g reg : BitVec r) (d : Bool) :
    genPoly g ∣ polyOf (syndromeStep g reg d) - (X * polyOf reg + bitPoly d * 1) := by
  cases r with
  | zero =>
    have h1 : genPoly g = 1 := by rw [genPoly, BitVec.eq_nil g]; simp [polyOf]
    rw [h1]
    exact one_dvd _
  | succ r =>
    refine ⟨bitPoly reg.msb, ?_⟩
    have h := polyOf_feedback g ((reg <<< 1) ||| (BitVec.ofBool d).setWidth (r + 1)) reg.msb
    rw [polyOf_shiftLeft_one_or, polyOf_shiftLeft_one] at h
    rw [syndromeStep]
    linear_combination h

/-! ## All bits through a register -/

/-- A register that multiplies by `x` and adds its bit times `w`, modulo `M`, has Horner's rule times `w` in it. -/
theorem dvd_foldl_horner {r : Nat} {M w : (ZMod 2)[X]} {f : BitVec r → Bool → BitVec r}
    (hf : ∀ reg b, M ∣ polyOf (f reg b) - (X * polyOf reg + bitPoly b * w)) (l : List Bool) {reg : BitVec r}
    {p : (ZMod 2)[X]} (h : M ∣ polyOf reg - p * w) :
    M ∣ polyOf (l.foldl f reg) - l.foldl (fun p b => X * p + bitPoly b) p * w := by
  induction l generalizing reg p with
  | nil => exact h
  | cons b l ih =>
    refine ih ?_
    have e : polyOf (f reg b) - (X * p + bitPoly b) * w =
        polyOf (f reg b) - (X * polyOf reg + bitPoly b * w) + X * (polyOf reg - p * w) := by ring
    rw [e]
    exact dvd_add (hf reg b) (h.mul_left X)

/-- A register of `r` bits that is congruent to a polynomial is its residue. -/
theorem polyOf_eq_modByMonic {r : Nat} {g v : BitVec r} {p : (ZMod 2)[X]} (h : genPoly g ∣ polyOf v - p) :
    polyOf v = p %ₘ genPoly g := by
  rw [← modByMonic_eq_of_dvd_sub (genPoly_monic g) h, (modByMonic_eq_self_iff (genPoly_monic g)).2]
  rw [degree_genPoly]
  exact degree_polyOf_lt v

theorem polyOf_remainder {r k : Nat} (g : BitVec r) (d : BitVec k) :
    polyOf (remainder g d) = (polyOf d * X ^ r) %ₘ genPoly g := by
  refine polyOf_eq_modByMonic ?_
  rw [remainder, polyOf_eq_foldl d]
  exact dvd_foldl_horner (genPoly_dvd_remainderStep g) _ (by simp)

theorem polyOf_syndrome {r n : Nat} (g : BitVec r) (d : BitVec n) : polyOf (syndrome g d) = polyOf d %ₘ genPoly g := by
  refine polyOf_eq_modByMonic ?_
  have h := dvd_foldl_horner (genPoly_dvd_syndromeStep g) (bitList d) (reg := 0#r) (p := 0) (by simp)
  rwa [mul_one, ← polyOf_eq_foldl] at h

/-! ## Codewords -/

theorem syndrome_xor {r n : Nat} (g : BitVec r) (a e : BitVec n) :
    syndrome g (a ^^^ e) = syndrome g a ^^^ syndrome g e := by
  refine polyOf_injective ?_
  rw [polyOf_xor, polyOf_syndrome, polyOf_syndrome, polyOf_syndrome, polyOf_xor, add_modByMonic]

/-- An error pattern in the parity of a codeword is its syndrome. -/
theorem syndrome_append_remainder_xor {r k : Nat} (g : BitVec r) (d : BitVec k) (e : BitVec r) :
    syndrome g (d ++ (remainder g d ^^^ e)) = e := by
  have hres : ∀ v : BitVec r, polyOf v %ₘ genPoly g = polyOf v := fun v =>
    (polyOf_eq_modByMonic (by simp)).symm
  refine polyOf_injective ?_
  rw [polyOf_syndrome, polyOf_append, polyOf_xor, add_modByMonic, add_modByMonic, hres, hres, ← polyOf_remainder,
    ← add_assoc, CharTwo.add_self_eq_zero, zero_add]

/-- A codeword has syndrome 0 (R161). -/
theorem syndrome_append_remainder {r k : Nat} (g : BitVec r) (d : BitVec k) : syndrome g (d ++ remainder g d) = 0#r := by
  simpa using syndrome_append_remainder_xor g d 0#r

/-- A codeword with inverted parity has a syndrome of all ones (R164). -/
theorem syndrome_append_not_remainder {r k : Nat} (g : BitVec r) (d : BitVec k) :
    syndrome g (d ++ ~~~remainder g d) = BitVec.allOnes r := by
  simpa using syndrome_append_remainder_xor g d (BitVec.allOnes r)

end Sys2Proof.Machine

namespace Sys2Proof

open Machine

/-- Settles O54: one bit through a register is one step of Horner's rule modulo the generator. -/
theorem parityIsPolynomialDivision : Obligations.ParityIsPolynomialDivision := by
  intro r g G hG
  obtain rfl := isPolyOf_iff.1 hG
  refine ⟨fun k d D hD => ?_, fun n a e => syndrome_xor g a e⟩
  obtain rfl := isPolyOf_iff.1 hD
  exact ⟨isPolyOf_iff.2 (polyOf_remainder g d).symm, isPolyOf_iff.2 (polyOf_syndrome g d).symm,
    syndrome_append_remainder g d, syndrome_append_not_remainder g d⟩

end Sys2Proof
end

section
/-! PROOFS. O57: the Viterbi search decodes a clean codeword to its input. Of all paths of one length only the sent one has
the largest metric, so the search never drops it. -/

namespace Sys2Proof.Machine

/-! ## The encoder as a state machine (R190) -/

/-- The first coded bit of input `u` out of state `st`, as the search computes it. -/
def codedBit0 (st : Nat) (u : Bool) : Bool := xor (xor u (st.testBit 2)) (st.testBit 3)

/-- The second coded bit. -/
def codedBit1 (st : Nat) (u : Bool) : Bool := xor (codedBit0 st u) (st.testBit 0)

/-- The first `k` inputs of `u` as a path of the search: a number, the first bit most significant. -/
def inputPath {n : Nat} (u : BitVec n) (k : Nat) : Nat := u.toNat / 2 ^ (n - k)

@[simp] theorem inputPath_zero {n : Nat} (u : BitVec n) : inputPath u 0 = 0 :=
  Nat.div_eq_of_lt u.isLt

@[simp] theorem inputPath_self {n : Nat} (u : BitVec n) : inputPath u n = u.toNat := by simp [inputPath]

theorem inputPath_succ {n : Nat} (u : BitVec n) {k : Nat} (hk : k < n) :
    inputPath u (k + 1) = 2 * inputPath u k + (u.getMsbD k).toNat := by
  have hbit : u.getMsbD k = decide (u.toNat / 2 ^ (n - (k + 1)) % 2 = 1) := by
    rw [BitVec.getMsbD_eq_getLsbD, ← BitVec.testBit_toNat, Nat.testBit_eq_decide_div_mod_eq, Nat.sub_right_comm,
      Nat.sub_sub]
    simp [hk]
  rw [inputPath, inputPath, hbit, show n - k = n - (k + 1) + 1 by omega, pow_succ, ← Nat.div_div_eq_div_mul]
  rcases Nat.mod_two_eq_zero_or_one (u.toNat / 2 ^ (n - (k + 1))) with h | h <;> simp [h] <;> omega

/-- Bit `d - 1` of the path is the input `d` steps back (R190). -/
theorem testBit_inputPath {n : Nat} (u : BitVec n) {k d : Nat} (hk : k ≤ n) (hd : 1 ≤ d) :
    (inputPath u k).testBit (d - 1) = tap u k d := by
  rw [inputPath, Nat.testBit_div_two_pow, BitVec.testBit_toNat, tap, BitVec.getMsbD_eq_getLsbD]
  by_cases h : d ≤ k
  · simp [h, show k - d < n by omega, show d - 1 + (n - k) = n - 1 - (k - d) by omega]
  · simp [h, BitVec.getLsbD_of_ge u (d - 1 + (n - k)) (by omega)]

theorem testBit_mod_16 (p : Nat) {i : Nat} (hi : i < 4) : (p % 16).testBit i = p.testBit i := by
  rw [show 16 = 2 ^ 4 by rfl, Nat.testBit_mod_two_pow]
  simp [hi]

theorem getMsbD_convEncode_even {n : Nat} (u : BitVec n) {k : Nat} (hk : k < n) :
    (convEncode u).getMsbD (2 * k) = codedBit0 (inputPath u k % 16) (u.getMsbD k) := by
  rw [convEncode, getMsbD_bitsOf, codedBit0, testBit_mod_16 _ (by decide), testBit_mod_16 _ (by decide),
    testBit_inputPath u (d := 3) hk.le (by decide), testBit_inputPath u (d := 4) hk.le (by decide)]
  simp [show 2 * k < 2 * n by omega, tap]

theorem getMsbD_convEncode_odd {n : Nat} (u : BitVec n) {k : Nat} (hk : k < n) :
    (convEncode u).getMsbD (2 * k + 1) = codedBit1 (inputPath u k % 16) (u.getMsbD k) := by
  rw [codedBit1, ← getMsbD_convEncode_even u hk, convEncode, getMsbD_bitsOf, getMsbD_bitsOf,
    testBit_mod_16 _ (by decide), testBit_inputPath u (d := 1) hk.le (by decide)]
  simp [show 2 * k < 2 * n by omega, show 2 * k + 1 < 2 * n by omega, show (2 * k + 1) / 2 = k by omega,
    show (2 * k + 1) % 2 = 1 by omega]

/-! ## Metrics on a clean symbol (R194, R195) -/

theorem symbolMetric_self (b : Bool) : symbolMetric (softOf b) b = 127 := by cases b <;> rfl

theorem symbolMetric_le (b c : Bool) : symbolMetric (softOf b) c ≤ 127 := by cases b <;> cases c <;> decide

theorem symbolMetric_of_ne {b c : Bool} (h : c ≠ b) : symbolMetric (softOf b) c = -127 := by
  revert h; cases b <;> cases c <;> decide

/-! ## Survivors -/

/-- The survivor extended by an input out of a state. -/
theorem extend_some (q0 q1 : Soft) (st : Nat) (u : Bool) (x : Survivor) :
    extend q0 q1 st u (some x) = some
      ⟨x.metric + (symbolMetric q0 (codedBit0 st u) + symbolMetric q1 (codedBit1 st u)), 2 * x.path + u.toNat⟩ := rfl

theorem extend_eq_some {q0 q1 : Soft} {st : Nat} {u : Bool} {o : Option Survivor} {y : Survivor}
    (h : extend q0 q1 st u o = some y) : ∃ x, o = some x ∧ y =
      ⟨x.metric + (symbolMetric q0 (codedBit0 st u) + symbolMetric q1 (codedBit1 st u)), 2 * x.path + u.toNat⟩ := by
  cases o with
  | none => cases h
  | some x => rw [extend_some] at h; cases h; exact ⟨x, rfl, rfl⟩

/-- The better of two is one of the two. -/
theorem better_eq (a b : Option Survivor) : better a b = a ∨ better a b = b := by
  unfold better
  split
  · exact .inr rfl
  · exact .inl rfl
  · split
    · exact .inl rfl
    · exact .inr rfl

/-- `x` beats `o`: `o` is `x`, or there is none, or it has a smaller metric. -/
def Beats (x : Survivor) (o : Option Survivor) : Prop := ∀ y, o = some y → y.metric < x.metric ∨ y = x

theorem better_of_beats_left {x : Survivor} {b : Option Survivor} (h : Beats x b) : better (some x) b = some x := by
  cases b with
  | none => rfl
  | some y =>
    rcases h y rfl with h | rfl
    · simp [better, h]
    · simp [better]

theorem better_of_beats_right {x : Survivor} {a : Option Survivor} (h : Beats x a) : better a (some x) = some x := by
  cases a with
  | none => rfl
  | some y =>
    rcases h y rfl with h | rfl
    · simp only [better]
      rw [if_neg (by omega)]
    · simp [better]

/-! ## The search on a clean codeword -/

/-- The sent path after `k` pairs of symbols of the codeword of `u`, with the largest metric, 254 a pair. -/
def sentSurvivor {n : Nat} (u : BitVec n) (k : Nat) : Survivor := ⟨254 * k, inputPath u k⟩

/-- What the survivors are after `k` pairs of symbols of the codeword of `u`: one for each state, which its path ends in; the
one in the encoder's state is the sent path, and every other has a smaller metric. -/
structure CleanSurvivors {n : Nat} (u : BitVec n) (k : Nat) (sv : List (Option Survivor)) : Prop where
  length : sv.length = 16
  sent   : sv.getD (inputPath u k % 16) none = some (sentSurvivor u k)
  beats  : ∀ st < 16, Beats (sentSurvivor u k) (sv.getD st none)
  state  : ∀ st < 16, ∀ x, sv.getD st none = some x → x.path % 16 = st

theorem cleanSurvivors_start {n : Nat} (u : BitVec n) : CleanSurvivors u 0 searchStart := by
  have hstart : ∀ st < 16, ∀ x, searchStart.getD st none = some x → st = 0 ∧ x = ⟨0, 0⟩ := by
    rintro (_ | st) hst x hx
    · exact ⟨rfl, by simpa [searchStart] using hx.symm⟩
    · have hnone : (List.replicate 15 (none : Option Survivor)).getD st none = none := by
        rw [List.getD_eq_getElem?_getD, List.getElem?_replicate]
        split <;> rfl
      cases hnone.symm.trans hx
  refine ⟨rfl, by simp [searchStart, sentSurvivor], fun st hst x hx => .inr ?_, fun st hst x hx => ?_⟩
  · rw [(hstart st hst x hx).2]; simp [sentSurvivor]
  · obtain ⟨rfl, rfl⟩ := hstart st hst x hx; rfl

/-- Survivor `ns` of a search step. -/
theorem getD_searchStep (q0 q1 : Soft) (sv : List (Option Survivor)) {ns : Nat} (h : ns < 16) :
    (searchStep q0 q1 sv).getD ns none =
      better (extend q0 q1 (ns / 2) (ns % 2 == 1) (sv.getD (ns / 2) none))
        (extend q0 q1 (ns / 2 + 8) (ns % 2 == 1) (sv.getD (ns / 2 + 8) none)) := by
  simp [searchStep, h]

section
variable {n k : Nat} {u : BitVec n} {sv : List (Option Survivor)}

/-- The symbols of pair `k` of the codeword of `u`. -/
def pairSymbol0 (u : BitVec n) (k : Nat) : Soft := softOf (codedBit0 (inputPath u k % 16) (u.getMsbD k))
def pairSymbol1 (u : BitVec n) (k : Nat) : Soft := softOf (codedBit1 (inputPath u k % 16) (u.getMsbD k))

/-- The sent path goes on as the sent path. -/
theorem extend_sentSurvivor (hk : k < n) :
    extend (pairSymbol0 u k) (pairSymbol1 u k) (inputPath u k % 16) (u.getMsbD k) (some (sentSurvivor u k)) =
      some (sentSurvivor u (k + 1)) := by
  rw [extend_some, pairSymbol0, pairSymbol1, symbolMetric_self, symbolMetric_self, sentSurvivor, sentSurvivor,
    inputPath_succ u hk]
  rfl

/-- Every other way on has a smaller metric: from another path, or by another input, which differs in its first coded bit. -/
theorem CleanSurvivors.beats_extend (h : CleanSurvivors u k sv) (hk : k < n) {st : Nat} (hst : st < 16) (v : Bool) :
    Beats (sentSurvivor u (k + 1)) (extend (pairSymbol0 u k) (pairSymbol1 u k) st v (sv.getD st none)) := by
  intro y hy
  obtain ⟨x, hx, rfl⟩ := extend_eq_some hy
  have h0 : symbolMetric (pairSymbol0 u k) (codedBit0 st v) ≤ 127 := symbolMetric_le _ _
  have h1 : symbolMetric (pairSymbol1 u k) (codedBit1 st v) ≤ 127 := symbolMetric_le _ _
  rcases h.beats st hst x hx with hlt | rfl
  · left
    simp only [sentSurvivor] at hlt ⊢
    omega
  · obtain rfl : inputPath u k % 16 = st := h.state st hst _ hx
    by_cases hv : v = u.getMsbD k
    · right
      have he := extend_sentSurvivor (u := u) hk
      rw [← hv, ← hx, hy] at he
      exact Option.some.inj he
    · left
      have hne : codedBit0 (inputPath u k % 16) v ≠ codedBit0 (inputPath u k % 16) (u.getMsbD k) := by
        simpa [codedBit0] using hv
      have := symbolMetric_of_ne hne
      rw [← pairSymbol0] at this
      simp only [sentSurvivor]
      omega

/-- A survivor's path ends in the state it is kept for. -/
theorem CleanSurvivors.state_extend (h : CleanSurvivors u k sv) {q0 q1 : Soft} {ns st : Nat} (hst : st < 16)
    (hns : ns < 16) (hs : st = ns / 2 ∨ st = ns / 2 + 8) {y : Survivor}
    (hy : extend q0 q1 st (ns % 2 == 1) (sv.getD st none) = some y) : y.path % 16 = ns := by
  obtain ⟨x, hx, rfl⟩ := extend_eq_some hy
  have hp := h.state st hst x hx
  have hb : (ns % 2 == 1).toNat = ns % 2 := by rcases Nat.mod_two_eq_zero_or_one ns with h | h <;> simp [h]
  simp only [hb]
  omega

theorem CleanSurvivors.step (h : CleanSurvivors u k sv) (hk : k < n) :
    CleanSurvivors u (k + 1) (searchStep (pairSymbol0 u k) (pairSymbol1 u k) sv) := by
  refine ⟨by simp [searchStep], ?_, fun ns hns => ?_, fun ns hns y hy => ?_⟩
  · have hns : inputPath u (k + 1) % 16 < 16 := Nat.mod_lt _ (by decide)
    have hsucc := inputPath_succ u hk
    have hsent := extend_sentSurvivor (u := u) hk
    rw [← h.sent] at hsent
    have hbit : (inputPath u (k + 1) % 16 % 2 == 1) = u.getMsbD k := by
      rw [hsucc, Nat.mod_mod_of_dvd _ (by decide), Nat.mul_add_mod]
      cases u.getMsbD k <;> rfl
    have hb := Bool.toNat_lt (u.getMsbD k)
    rw [getD_searchStep _ _ _ hns, hbit]
    rcases (by omega : inputPath u (k + 1) % 16 / 2 = inputPath u k % 16 ∨
      inputPath u (k + 1) % 16 / 2 + 8 = inputPath u k % 16) with e | e
    · rw [e, hsent]
      exact better_of_beats_left (h.beats_extend hk (by omega) _)
    · rw [e, hsent]
      exact better_of_beats_right (h.beats_extend hk (by omega) _)
  · rw [getD_searchStep _ _ _ hns]
    rcases better_eq _ _ with e | e <;> rw [e] <;> exact h.beats_extend hk (by omega) _
  · rw [getD_searchStep _ _ _ hns] at hy
    rcases better_eq _ _ with e | e <;> rw [e] at hy
    · exact h.state_extend (by omega) hns (.inl rfl) hy
    · exact h.state_extend (by omega) hns (.inr rfl) hy

end

/-! ## Decoding -/

/-- The pairs of symbols left after `k` of them. -/
theorem drop_image_convEncode {n : Nat} (u : BitVec n) {k : Nat} (hk : k < n) :
    (image (convEncode u)).toList.drop (2 * k) =
      pairSymbol0 u k :: pairSymbol1 u k :: (image (convEncode u)).toList.drop (2 * (k + 1)) := by
  have hlen : (image (convEncode u)).toList.length = 2 * n := by simp
  rw [List.drop_eq_getElem_cons (by omega), List.drop_eq_getElem_cons (by omega)]
  simp [image, pairSymbol0, pairSymbol1, getMsbD_convEncode_even u hk, getMsbD_convEncode_odd u hk, Nat.mul_add]

theorem cleanSurvivors_search {n : Nat} (u : BitVec n) {j k : Nat} (hjk : k + j = n) {sv : List (Option Survivor)}
    (h : CleanSurvivors u k sv) : CleanSurvivors u n (search ((image (convEncode u)).toList.drop (2 * k)) sv) := by
  induction j generalizing k sv with
  | zero =>
    obtain rfl : k = n := hjk
    rw [List.drop_eq_nil_of_le (by simp)]
    exact h
  | succ j ih =>
    rw [drop_image_convEncode u (by omega), search]
    exact ih (by omega) (h.step (by omega))

/-- The survivor that beats all of a list is the best of the list. -/
theorem foldl_better {x : Survivor} {l : List (Option Survivor)} (hl : ∀ o ∈ l, Beats x o) {a : Option Survivor}
    (ha : Beats x a) (hx : a = some x ∨ some x ∈ l) : l.foldl better a = some x := by
  induction l generalizing a with
  | nil => simpa using hx
  | cons o l ih =>
    have ho := hl o (List.mem_cons_self ..)
    refine ih (fun o' h => hl o' (List.mem_cons_of_mem _ h)) ?_ ?_
    · rcases better_eq a o with e | e <;> rw [e] <;> assumption
    · rcases hx with rfl | hx
      · exact .inl (better_of_beats_left ho)
      · rcases List.mem_cons.1 hx with rfl | hx
        · exact .inl (better_of_beats_right ha)
        · exact .inr hx

/-- Law 1 of R196 for the default decoder. -/
theorem viterbi_clean : CleanCodewordLaw viterbi := by
  intro n u
  obtain ⟨hlen, hsent, hbeats, -⟩ := cleanSurvivors_search u (Nat.zero_add n) (cleanSurvivors_start u)
  rw [Nat.mul_zero, List.drop_zero] at hlen hsent hbeats
  have hbest : (search (image (convEncode u)).toList searchStart).foldl better none = some (sentSurvivor u n) := by
    refine foldl_better (fun o ho => ?_) nofun (.inr ?_)
    · obtain ⟨st, hst, rfl⟩ := List.getElem_of_mem ho
      rw [← List.getD_eq_getElem _ none hst]
      exact hbeats st (hlen ▸ hst)
    · rw [← hsent, List.getD_eq_getElem _ _ (by rw [hlen]; exact Nat.mod_lt _ (by decide))]
      exact List.getElem_mem _
  rw [viterbi, hbest]
  simp [sentSurvivor]

theorem lawful_hardware : LawfulParams hardware := ⟨viterbi_clean, by decide, by decide, by decide, by decide⟩

end Sys2Proof.Machine

namespace Sys2Proof

open Machine

/-- Settles O57: the search keeps the sent path as the one of the largest metric. -/
theorem viterbiDecodesCleanCodewords : Obligations.ViterbiDecodesCleanCodewords :=
  ⟨viterbi_clean, lawful_hardware, stepFor_hardware lawful_hardware⟩

end Sys2Proof
end

section
/-! PROOFS. O59 and O60: the round trips of a control frame and of a speech frame, on every block whose `VD` obeys law 1 of
R196. -/

namespace Sys2Proof.Machine

open Config (Params)

/-! ## Commands that only answer -/

/-- Outside the fault state, a command whose checks pass answers its words and changes nothing else. -/
theorem State.command_answers {s : State} (hs : s.ready) {o : Opcode} {ch : BitVec 8} {checks : List (Bool × FaultCode)}
    (hc : firstFault checks = none) {ws : List Word} {w : Word} (hw : okStatus o.code ws.length = w) :
    s.command o ch checks (.next (s.complete o ws)) = .next (s.answered w ws) := by
  rw [State.command_of_pass hs hc, State.complete_eq_answered, hw]

/-- The checks of a pure command with `ch = 0` and `arg = 0` that has no other check pass. -/
theorem pureChecks_pass : firstFault [notGlobal 0#8, argUsed 0#16] = none := rfl

/-- A hard-decision image passes the check of a soft payload. -/
theorem softChecks_pass {n : Nat} (v : BitVec n) :
    firstFault [notGlobal 0#8, argUsed 0#16, (!legalSoft (unpackSoft n (packSoft (image v))), .badArgument)] = none := by
  rw [unpackSoft_packSoft, legalSoft_image]
  rfl

/-! ## LSB8MSB -/

/-- `LSB8MSB` twice is the identity (R150): within a whole octet it swaps bits `i` and `7 - i`. -/
theorem lsb8msb_lsb8msb {n : Nat} (v : BitVec n) : lsb8msb (lsb8msb v) = v := by
  refine eq_of_getMsbD fun i hi => ?_
  rw [getMsbD_lsb8msb, getMsbD_lsb8msb, getMsbD_lsb8msb]
  simp only [hi, decide_true, Bool.true_and]
  split
  · rw [if_pos (by omega), show 8 * ((8 * (i / 8) + (7 - i % 8)) / 8) + (7 - (8 * (i / 8) + (7 - i % 8)) % 8) = i by omega]
    simp [show 8 * (i / 8) + (7 - i % 8) < n by omega]
  · rfl

/-! ## Views -/

theorem slice_writeView_self {n len : Nat} (v : BitVec n) {pos : Nat} (x : BitVec len) (h : pos + len ≤ n) :
    slice (writeView v pos x) pos len = x := by
  refine eq_of_getMsbD fun i hi => ?_
  rw [getMsbD_slice _ h, getMsbD_writeView]
  simp [hi, show pos + i < n by omega]

/-- A view read after a write through another that does not overlap it. -/
theorem slice_writeView_disjoint {n len len' : Nat} (v : BitVec n) {pos pos' : Nat} (x : BitVec len') (h : pos + len ≤ n)
    (hd : pos + len ≤ pos' ∨ pos' + len' ≤ pos) : slice (writeView v pos' x) pos len = slice v pos len := by
  refine eq_of_getMsbD fun i hi => ?_
  rw [getMsbD_slice _ h, getMsbD_slice _ h, getMsbD_writeView, if_neg (by omega)]
  simp [hi, show pos + i < n by omega]

/-- Two neighbouring views are one. -/
theorem slice_add {n : Nat} (v : BitVec n) {a b : Nat} (h : a + b ≤ n) :
    slice v 0 (a + b) = slice v 0 a ++ slice v a b := by
  refine eq_of_getMsbD fun i hi => ?_
  rw [getMsbD_slice _ (by omega), BitVec.getMsbD_append, getMsbD_slice _ (by omega), getMsbD_slice _ (by omega)]
  split
  · simp [hi, show i - a < b by omega, show a + (i - a) = i by omega]
  · simp [hi, show i < a by omega]

/-! ## Control frames -/

variable (P : Params) (f : BitVec 184)

theorem xcchFill_eq (eU : BitVec 228) : xcchFill P eU f =
    writeView (writeView (writeView eU 0 f) 0 (lsb8msb f)) 184 (~~~remainder P.gFire (lsb8msb f)) := by
  simp only [xcchFill, slice_writeView_self _ _ (show 0 + 184 ≤ 228 by decide)]

/-- The data bits of an uncoded block are the rewritten frame (R172). -/
theorem slice_xcchFill_data (eU : BitVec 228) : slice (xcchFill P eU f) 0 184 = lsb8msb f := by
  rw [xcchFill_eq, slice_writeView_disjoint _ _ (by decide) (by decide), slice_writeView_self _ _ (by decide)]

/-- The parity of an uncoded block is the inverted remainder (R164). -/
theorem slice_xcchFill_parity (eU : BitVec 228) : slice (xcchFill P eU f) 184 40 = ~~~remainder P.gFire (lsb8msb f) := by
  rw [xcchFill_eq, slice_writeView_self _ _ (by decide)]

theorem slice_invertParity_data (u : BitVec 228) : slice (invertParity u) 0 184 = slice u 0 184 :=
  slice_writeView_disjoint _ _ (by decide) (by decide)

theorem slice_invertParity_parity (u : BitVec 228) : slice (invertParity u) 184 40 = ~~~slice u 184 40 :=
  slice_writeView_self _ _ (by decide)

/-- A block that was sent is a valid block with its parity inverted back (R164). -/
theorem xcchValid_xcchFill (eU : BitVec 228) : xcchValid P (invertParity (xcchFill P eU f)) = true := by
  rw [xcchValid, slice_add (a := 184) (b := 40) _ (by decide), slice_invertParity_data, slice_invertParity_parity,
    slice_xcchFill_data, slice_xcchFill_parity, BitVec.not_not, syndrome_append_remainder]
  rfl

variable {P} in
/-- Decoding the hard-decision image of a coded control frame says valid and gives the frame (T1 of 95_test_vectors.md). -/
theorem xcchDecodeWords_image (h : CleanCodewordLaw P.vd) (eU : BitVec 228) :
    xcchDecodeWords P (image (convEncode (xcchFill P eU f))) = 1#32 :: packBits f := by
  have hvd : P.vd 228 (image (convEncode (xcchFill P eU f))) = xcchFill P eU f := h 228 _
  simp only [xcchDecodeWords]
  rw [hvd, xcchValid_xcchFill, slice_invertParity_data, slice_xcchFill_data, lsb8msb_lsb8msb]
  rfl

variable {P} in
theorem xcch_commands_round_trip (h : CleanCodewordLaw P.vd) {s s' : State} (hs : s.ready) (hs' : s'.ready)
    (frame : List Word) :
    ∃ ws, execXcchCode 0#8 0#16 frame s P = .next (s.answered 0x2300000F#32 ws) ∧
      execXcchDecode 0#8 0#16 (packSoft (image (unpackBits 456 ws))) s' P
        = .next (s'.answered 0x24000007#32 (1#32 :: packBits (unpackBits 184 frame))) := by
  refine ⟨_, State.command_answers hs pureChecks_pass (by rw [length_packBits]; rfl), ?_⟩
  rw [unpackBits_packBits, execXcchDecode]
  refine (State.command_answers (w := 0x24000007#32) hs' (softChecks_pass _) ?_).trans ?_
  · rw [unpackSoft_packSoft, xcchDecodeWords_image _ h, List.length_cons, length_packBits]; rfl
  · rw [unpackSoft_packSoft, xcchDecodeWords_image _ h]

/-! ## Speech frames -/

/-- The inverse permutation undoes the reordering (R321). -/
theorem tchUnorder_tchReorder (x : BitVec 260) : tchUnorder P (tchReorder P x) = x := by
  refine eq_of_getMsbD fun j hj => ?_
  have hlt : tchOrderInv P j < 260 := (P.tchOrder.symm _).isLt
  have hinv : tchOrder P (tchOrderInv P j) = j := by
    have hmod : j % 260 = j := Nat.mod_eq_of_lt hj
    simp [tchOrder, tchOrderInv, Fin.ofNat, Nat.mod_eq_of_lt, hmod]
  simp [tchUnorder, tchReorder, getMsbD_bitsOf, hj, hlt, hinv]

variable (d : BitVec 260)

/-- The parity of `TCHU` stands at 91 (R320). -/
theorem slice_tchFold_parity : slice (tchFold P d) 91 3 = tchParity P d := by
  refine eq_of_getMsbD fun i hi => ?_
  rw [getMsbD_slice _ (by decide), tchFold, getMsbD_bitsOf, if_neg (by omega), if_pos (by omega),
    Nat.add_sub_cancel_left]
  simp [hi, show 91 + i < 189 by omega]

/-- The tail of `TCHU` is zero (R320). -/
theorem slice_tchFold_tail : slice (tchFold P d) 185 4 = 0#4 := by
  refine eq_of_getMsbD fun i hi => ?_
  rw [getMsbD_slice _ (by decide), tchFold, getMsbD_bitsOf, if_neg (by omega), if_neg (by omega), if_neg (by omega)]
  simp

/-- The class-1 symbols of a coded block are the codeword of `TCHU` (R320). -/
theorem image_tchCoded_class1 (u : BitVec 189) :
    (vecOf 378 fun i => (image (tchCoded u d)).getD i 0) = image (convEncode u) := by
  refine Vector.ext fun i hi => ?_
  have hi' : i < 2 * 189 + 78 := by omega
  rw [getElem_vecOf, image, image, getD_vecOf _ _ _ _ hi', getElem_vecOf, tchCoded, BitVec.getMsbD_append,
    if_neg (by omega)]

/-- The class-2 symbols of a coded block are the class-2 bits (R320). -/
theorem hard_image_tchCoded_class2 (u : BitVec 189) {i : Nat} (hi : i < 78) :
    hard ((image (tchCoded u d)).getD (378 + i) 0) = d.getMsbD (182 + i) := by
  have hi' : 378 + i < 2 * 189 + 78 := by omega
  rw [image, getD_vecOf _ _ _ _ hi', hard_softOf, tchCoded, BitVec.getMsbD_append, if_pos (by omega),
    getMsbD_slice _ (by decide)]
  simp [hi]

/-- Unfolding undoes the fold: even bits come from the front, odd bits from the back (R320, R321). -/
theorem tchUnfold_tchFold : tchUnfold (tchFold P d) (image (tchCoded (tchFold P d) d)) = d := by
  refine eq_of_getMsbD fun i hi => ?_
  rw [tchUnfold, getMsbD_bitsOf]
  simp only [hi, decide_true, Bool.true_and]
  split
  · split
    · rw [tchFold, getMsbD_bitsOf, if_pos (by omega), show 2 * (i / 2) = i by omega]
      simp [show i / 2 < 189 by omega]
    · rw [tchFold, getMsbD_bitsOf, if_neg (by omega), if_neg (by omega), if_pos (by omega),
        show 2 * (184 - (184 - i / 2)) + 1 = i by omega]
      simp [show 184 - i / 2 < 189 by omega]
  · rw [hard_image_tchCoded_class2 _ _ (by omega), show 182 + (i - 182) = i by omega]

variable {P} in
/-- Decoding the hard-decision image of a coded speech frame finds parity and tail in order and gives the frame (T2 of
95_test_vectors.md). -/
theorem tchDecode_image (h : CleanCodewordLaw P.vd) (x : BitVec 260) :
    tchDecode P (image (tchEncode P x)) =
      { dTU := tchFold P (tchReorder P x), dTD := tchReorder P x, parityOK := true, tailOK := true, s := x } := by
  have hvd : P.vd 189 (vecOf 378 fun i => (image (tchEncode P x)).getD i 0) = tchFold P (tchReorder P x) := by
    rw [tchEncode, image_tchCoded_class1]
    exact h 189 _
  have hd : tchUnfold (tchFold P (tchReorder P x)) (image (tchEncode P x)) = tchReorder P x := tchUnfold_tchFold _ _
  simp only [tchDecode]
  rw [hvd, hd, slice_tchFold_parity, slice_tchFold_tail, tchUnorder_tchReorder]
  simp

variable {P} in
theorem tchDecodeWords_image (h : CleanCodewordLaw P.vd) (x : BitVec 260) :
    tchDecodeWords (tchDecode P (image (tchEncode P x))) = 7#32 :: packBits x := by
  rw [tchDecode_image h]
  simp [tchDecodeWords, TchDecoded.good]

variable {P} in
theorem tch_commands_round_trip (h : CleanCodewordLaw P.vd) {s s' : State} (hs : s.ready) (hs' : s'.ready)
    (frame : List Word) :
    ∃ ws, execTchSpeechEncode 0#8 0#16 frame s P = .next (s.answered 0x3800000F#32 ws) ∧
      execTchSpeechDecode 0#8 0#16 (packSoft (image (unpackBits 456 ws))) s' P
        = .next (s'.answered 0x3900000A#32 (7#32 :: packBits (unpackBits 260 frame))) := by
  refine ⟨_, State.command_answers hs pureChecks_pass (by rw [length_packBits]; rfl), ?_⟩
  rw [unpackBits_packBits, execTchSpeechDecode]
  refine (State.command_answers (w := 0x3900000A#32) hs' (softChecks_pass _) ?_).trans ?_
  · rw [unpackSoft_packSoft, tchDecodeWords_image h, List.length_cons, length_packBits]; rfl
  · rw [unpackSoft_packSoft, tchDecodeWords_image h]

end Sys2Proof.Machine

namespace Sys2Proof

open Machine

/-- Settles O59: the law of `VD` gives back the uncoded block, whose parity and data then read as they were written. -/
theorem xcchRoundTrip : Obligations.XcchRoundTrip := by
  intro s s' frame hs hs'
  obtain ⟨ws, hcode, hdecode⟩ := xcch_commands_round_trip (P := hardware) viterbi_clean hs hs' frame
  exact ⟨ws, hcode, hdecode, fun P => xcch_commands_round_trip P.2.1 hs hs' frame⟩

/-- Settles O60: the law of `VD` gives back `TCHU`, and unfolding and reordering undo the fold and the permutation. -/
theorem tchRoundTrip : Obligations.TchRoundTrip := by
  intro s s' frame hs hs'
  obtain ⟨ws, hcode, hdecode⟩ := tch_commands_round_trip (P := hardware) viterbi_clean hs hs' frame
  exact ⟨ws, hcode, hdecode, fun P => tch_commands_round_trip P.2.1 hs hs' frame⟩

end Sys2Proof
end

section
/-! PROOFS. O5: the turns of the clock, of `RST` and of the host. The decoder reads a command as exactly the words of its
encoding, whatever follows them, so the whole commands of a stream do not depend on what the host appends. -/

namespace Sys2Proof

open Machine

/-! ## Command words read back -/

theorem commandWord_fields (w : Word) : commandWord (opcField w) (chField w) (argField w) = w := by
  refine BitVec.eq_of_getLsbD_eq fun i hi => ?_
  simp only [commandWord, opcField, chField, argField, BitVec.getLsbD_append, BitVec.getLsbD_extractLsb']
  split
  · simp_all
  · split
    · simp [show i - 16 < 8 by omega, show 16 + (i - 16) = i by omega]
    · simp [show i - 16 - 8 < 8 by omega, show 24 + (i - 16 - 8) = i by omega]

theorem code_of_ofCode {c : BitVec 8} {o : Opcode} (h : Opcode.ofCode c = some o) : o.code = c := by
  simpa using List.find?_some h

/-! ## What a parser consumes -/

/-- `f` reads the payload of a command of operation `o` with the fields `ch` and `arg`, of which `got` has been read: unless
words are missing, it takes the rest of the payload off its words, the same whatever follows. -/
def Reads (o : Opcode) (ch : BitVec 8) (arg : BitVec 16) (got : List Word) (f : List Word → Decoded) : Prop :=
  ∀ ws, f ws = .incomplete ∨ ∃ i rest, f ws = .instr i rest ∧ i.opcode = o ∧ i.ch = ch ∧ i.arg = arg ∧
    ∃ p, i.payload = got ++ p ∧ ws = p ++ rest ∧ ∀ x, f (p ++ x) = .instr i x

section
variable {o : Opcode} {ch : BitVec 8} {arg : BitVec 16} {got : List Word}

theorem Reads.instr (i : Instr) (h : i.payload = got) : Reads i.opcode i.ch i.arg got (.instr i) := fun ws =>
  .inr ⟨i, ws, rfl, rfl, rfl, rfl, [], by simpa using h, rfl, fun _ => rfl⟩

theorem Reads.withWord {k : Word → List Word → Decoded} (h : ∀ w, Reads o ch arg (got ++ [w]) (k w)) :
    Reads o ch arg got (withWord · k) := by
  intro ws
  cases ws with
  | nil => exact .inl rfl
  | cons w ws =>
    refine (h w ws).imp_right ?_
    rintro ⟨i, rest, hi, ho, hc, ha, p, hp, rfl, hx⟩
    exact ⟨i, rest, hi, ho, hc, ha, w :: p, by simpa using hp, rfl, hx⟩

theorem Reads.withWords {n : Nat} {k : List Word → List Word → Decoded} (h : ∀ l, Reads o ch arg (got ++ l) (k l)) :
    Reads o ch arg got (withWords n · k) := by
  intro ws
  simp only [Sys2Proof.withWords]
  split
  · rename_i l ws' hl
    obtain ⟨rfl, rfl⟩ := takeWords_eq_some hl
    refine (h l ws').imp_right ?_
    rintro ⟨i, rest, hi, ho, hc, ha, p, hp, rfl, hx⟩
    refine ⟨i, rest, hi, ho, hc, ha, l ++ p, by simpa using hp, by simp, fun x => ?_⟩
    simpa only [List.append_assoc, takeWords_append] using hx x
  · exact .inl rfl

theorem Reads.withRecord {k : MapRecord → List Word → Decoded} (h : ∀ r, Reads o ch arg (got ++ r.words) (k r)) :
    Reads o ch arg got (withRecord · k) :=
  .withWord fun head => .withWord fun p => .withWords fun l => by
    simpa [MapRecord.words] using h ⟨head, p, l⟩

/-- Every operation's payload is read so (R113, R124). -/
theorem reads_decodeOp (o : Opcode) (ch : BitVec 8) (arg : BitVec 16) : Reads o ch arg [] (decodeOp o ch arg) := by
  cases o with
  | csrWrite | rachCheck | schCode | schSend | mapReverse => exact .withWord fun _ => .instr _ rfl
  | fnAdd | fnDelta | timeCmp | mapRoll => exact .withWord fun _ => .withWord fun _ => .instr _ rfl
  | chConfig => exact .withWord fun _ => .withRecord fun _ => .withRecord fun _ => .instr _ (by simp [Instr.payload])
  | tchInterleave => exact .withWords fun _ => .withWords fun _ => .instr _ rfl
  | rxBurst => exact .withWord fun _ => .withWord fun _ => .withWords fun _ => .instr _ rfl
  | lsb8msb | parEncode | parSyndrome | xcchCode | xcchDecode | convEncode | viterbiDecode | xcchInterleave
  | xcchDeinterleave | tchDeinterleave | burstMap | burstUnmap | tchSpeechEncode | tchSpeechDecode | l2Data
  | tchSpeechPush => exact .withWords fun _ => .instr _ rfl
  | nop | reset | csrRead | chDeconfig | chStatus | l2Establish | l2Release | l2Error | rachService | idleFill | fcchSend
  | tchSendSlot | resync | waitToSend | phyRead | ferGood | ferBad => exact .instr _ rfl

end

/-! ## What the decoder consumes -/

/-- A command read is the words of its encoding, and they read so whatever follows them. -/
theorem decode_eq_instr {ws rest : List Word} {i : Instr} (h : decode ws = .instr i rest) :
    ws = encode i ++ rest ∧ ∀ x, decode (encode i ++ x) = .instr i x := by
  cases ws with
  | nil => cases h
  | cons w ws =>
    rw [decode] at h
    split at h
    · rename_i o ho
      rcases reads_decodeOp o (chField w) (argField w) ws with hinc | ⟨j, rest', hj, hop, hch, harg, p, hp, rfl, hx⟩
      · rw [hinc] at h; cases h
      · rw [hj] at h
        cases h
        have he : encode i = w :: p := by
          rw [encode, hop, hch, harg, hp, code_of_ofCode ho, commandWord_fields]
          rfl
        rw [he]
        refine ⟨rfl, fun x => ?_⟩
        rw [List.cons_append, decode, ho]
        exact hx x
    · split at h <;> cases h

/-- An illegal command word is read alone (R122, R124), whatever follows it. -/
theorem decode_eq_illegal {ws rest : List Word} {w : Word}
    (h : decode ws = .illegalOpcode w rest ∨ decode ws = .illegalPrimitive w rest) :
    ws = w :: rest ∧
      ((∀ x, decode (w :: x) = .illegalOpcode w x) ∨ ∀ x, decode (w :: x) = .illegalPrimitive w x) := by
  cases ws with
  | nil => rcases h with h | h <;> cases h
  | cons v ws =>
    cases ho : Opcode.ofCode (opcField v) with
    | some o =>
      simp only [decode, ho] at h
      rcases reads_decodeOp o (chField v) (argField v) ws with e | ⟨j, rest', e, -⟩ <;> simp [e] at h
    | none =>
      cases hp : reservedPrimitive (opcField v) with
      | true =>
        obtain ⟨rfl, rfl⟩ : v = w ∧ ws = rest := by simpa [decode, ho, hp] using h
        exact ⟨rfl, .inr fun x => by simp [decode, ho, hp]⟩
      | false =>
        obtain ⟨rfl, rfl⟩ : v = w ∧ ws = rest := by simpa [decode, ho, hp] using h
        exact ⟨rfl, .inl fun x => by simp [decode, ho, hp]⟩

/-! ## Whole commands -/

theorem length_encode_pos (i : Instr) : 0 < (encode i).length := Nat.succ_pos _

/-- Fuel beyond the number of words changes nothing: each command takes at least one word. -/
theorem wholeCommandsIn_congr {n m : Nat} {ws : List Word} (hn : ws.length ≤ n) (hm : ws.length ≤ m) :
    wholeCommandsIn n ws = wholeCommandsIn m ws := by
  induction n generalizing m ws with
  | zero =>
    obtain rfl := List.length_eq_zero_iff.1 (Nat.le_zero.1 hn)
    cases m <;> rfl
  | succ n ih =>
    cases m with
    | zero =>
      obtain rfl := List.length_eq_zero_iff.1 (Nat.le_zero.1 hm)
      rfl
    | succ m =>
      rw [wholeCommandsIn, wholeCommandsIn]
      cases h : decode ws with
      | incomplete => rfl
      | instr i rest =>
        have hlen : ws.length = (encode i).length + rest.length := by rw [(decode_eq_instr h).1, List.length_append]
        have hpos := length_encode_pos i
        exact congrArg (encode i ++ ·) (ih (by omega) (by omega))
      | illegalOpcode w rest =>
        obtain ⟨rfl, -⟩ := decode_eq_illegal (.inl h)
        exact congrArg (w :: ·) (ih (Nat.le_of_succ_le_succ hn) (Nat.le_of_succ_le_succ hm))
      | illegalPrimitive w rest =>
        obtain ⟨rfl, -⟩ := decode_eq_illegal (.inr h)
        exact congrArg (w :: ·) (ih (Nat.le_of_succ_le_succ hn) (Nat.le_of_succ_le_succ hm))

theorem wholeCommandsIn_eq {n : Nat} {ws : List Word} (h : ws.length ≤ n) : wholeCommandsIn n ws = wholeCommands ws :=
  wholeCommandsIn_congr h le_rfl

theorem wholeCommands_of_incomplete {ws : List Word} (h : decode ws = .incomplete) : wholeCommands ws = [] := by
  cases ws with
  | nil => rfl
  | cons w ws => simp only [wholeCommands, List.length_cons, wholeCommandsIn, h]

theorem wholeCommands_of_instr {ws rest : List Word} {i : Instr} (h : decode ws = .instr i rest) :
    wholeCommands ws = encode i ++ wholeCommands rest := by
  have hlen : ws.length = (encode i).length + rest.length := by rw [(decode_eq_instr h).1, List.length_append]
  have hpos := length_encode_pos i
  obtain ⟨n, hn⟩ : ∃ n, ws.length = n + 1 := ⟨ws.length - 1, by omega⟩
  rw [wholeCommands, hn]
  simp only [wholeCommandsIn, h]
  rw [wholeCommandsIn_eq (by omega)]

theorem wholeCommands_of_illegal {ws rest : List Word} {w : Word}
    (h : decode ws = .illegalOpcode w rest ∨ decode ws = .illegalPrimitive w rest) :
    wholeCommands ws = w :: wholeCommands rest := by
  obtain ⟨rfl, -⟩ := decode_eq_illegal h
  rw [wholeCommands, List.length_cons]
  rcases h with h | h <;> simp only [wholeCommandsIn, h] <;> rw [wholeCommandsIn_eq le_rfl]

/-- An illegal command word counts as a whole command: what is appended after it is read from the start of a command. -/
theorem wholeCommands_append_of_illegal {ws rest new : List Word} {w : Word}
    (h : decode ws = .illegalOpcode w rest ∨ decode ws = .illegalPrimitive w rest)
    (ih : rest.length < ws.length → wholeCommands (wholeCommands rest ++ new) = wholeCommands rest ++ wholeCommands new) :
    wholeCommands (wholeCommands ws ++ new) = wholeCommands ws ++ wholeCommands new := by
  obtain ⟨hws, hread⟩ := decode_eq_illegal h
  rw [wholeCommands_of_illegal h, List.cons_append, List.cons_append, wholeCommands_of_illegal (hread.imp (· _) (· _)),
    ih (by rw [hws]; exact Nat.lt_succ_self _)]

/-- What the host appends after whole commands is read from the start of a command (R412). -/
theorem wholeCommands_append (ws new : List Word) :
    wholeCommands (wholeCommands ws ++ new) = wholeCommands ws ++ wholeCommands new := by
  induction hn : ws.length using Nat.strong_induction_on generalizing ws with
  | _ n ih =>
    subst hn
    cases h : decode ws with
    | incomplete => rw [wholeCommands_of_incomplete h]; rfl
    | instr i rest =>
      obtain ⟨hws, hread⟩ := decode_eq_instr h
      have hlen : rest.length < ws.length := by
        have := length_encode_pos i
        rw [hws, List.length_append]
        omega
      rw [wholeCommands_of_instr h, List.append_assoc, wholeCommands_of_instr (hread _), ih _ hlen _ rfl,
        List.append_assoc]
    | illegalOpcode w rest => exact wholeCommands_append_of_illegal (.inl h) (ih _ · _ rfl)
    | illegalPrimitive w rest => exact wholeCommands_append_of_illegal (.inr h) (ih _ · _ rfl)

/-! ## Turns -/

/-- The agent at the head of `sched` moves. -/
theorem step_of_sched {s : State} {a : Turn} {ts : List Turn} (h : s.sched = a :: ts) :
    step s = agentTurn hardware exec a { s with sched := ts } := by
  rw [step, machineTurn, h]

/-- A clock that keeps the contract of R43 and R14 is taken over. -/
theorem clockTurn_of_legal {s : State} {t : Time} {ms : Word} (hfn : t.fn < 2715648)
    (hcmp : 0 ≤ timeCmp hardware t s.nowTime) :
    clockTurn hardware t ms s = .next { s with nowTime := t, nowMs := s.nowMs + ms } := by
  have hlegal : t.legal hardware = true := decide_eq_true hfn
  simp [clockTurn, hlegal, hcmp]

/-- A clock that breaks it stops the model (R417). -/
theorem clockTurn_of_illegal {s : State} {t : Time} {ms : Word}
    (h : 2715648 ≤ t.fn ∨ timeCmp hardware t s.nowTime < 0) : clockTurn hardware t ms s = .fault .clockContract := by
  refine if_neg fun hc => ?_
  rw [Bool.and_eq_true, decide_eq_true_eq] at hc
  have hfn : t.fn < 2715648 := of_decide_eq_true hc.1
  omega

/-- Settles O5: each turn of the machine is the turn of the agent at the head of `sched`; what `RST` leaves on the port does
not depend on what follows. -/
theorem agentsTakeTurns : Obligations.AgentsTakeTurns := by
  refine ⟨fun s t ms ts hs hfn hcmp => ?_, fun s t ms ts hs hbad => ?_, fun s ts hs => ?_, fun s ws ts hs => ?_,
    fun _ => wholeCommands_of_incomplete, fun _ _ _ => wholeCommands_of_instr, fun _ _ _ => wholeCommands_of_illegal,
    wholeCommands_append⟩
  · exact (step_of_sched hs).trans (clockTurn_of_legal hfn hcmp)
  · exact (step_of_sched hs).trans (clockTurn_of_illegal hbad)
  · exact step_of_sched hs
  · exact step_of_sched hs

end Sys2Proof
end

section
/-! PROOFS. What one step of the machine can do to the registers and the contexts, said once, and O16: every step keeps every
context well-formed. -/

namespace Sys2Proof.Machine

open Config (Params)

/-! ## Everything a step can do to the registers and the contexts -/

/-- How a step leads from `s` to `t`, as far as the registers and the contexts go. -/
inductive State.StepsTo (s t : State) : Prop where
  /-- A command runs, in a state that differs from `s` in the command port and the agents to come. -/
  | command (i : Instr) (u : State) (h : exec i u = .next t) (hcsr : u.csr = s.csr) (hctx : u.ctx = s.ctx)
  /-- An unassigned `opc` takes its fault (R122). -/
  | fault (opc ch : BitVec 8) (f : FaultCode) (hcsr : t.csr = { s.csr with fault := faultWord opc ch f })
    (hctx : t.ctx = s.ctx)
  /-- Neither registers nor contexts change. -/
  | keep (hcsr : t.csr = s.csr) (hctx : t.ctx = s.ctx)
  /-- Both take their reset values (R410, R411). -/
  | reset (hcsr : t.csr = .reset hardware) (hctx : t.ctx = Ctx.allReset hardware)

section
variable {s t u : State}

theorem State.StepsTo.of_illegal {f : FaultCode} {w : Word} (h : illegalCommand f w u = .next t) (hcsr : u.csr = s.csr)
    (hctx : u.ctx = s.ctx) : s.StepsTo t := by
  unfold illegalCommand at h
  split at h <;> cases h
  · exact .keep hcsr hctx
  · exact .fault (opcField w) (chField w) f (by rw [State.takeFault_csr, hcsr]) hctx

theorem State.StepsTo.of_processor (h : processorTurn exec u = .next t) (hcsr : u.csr = s.csr) (hctx : u.ctx = s.ctx) :
    s.StepsTo t := by
  unfold processorTurn at h
  split at h
  · exact .command _ u h hcsr hctx
  · split at h
    · exact .command _ _ h hcsr hctx
    · exact .of_illegal h hcsr hctx
    · exact .of_illegal h hcsr hctx
    · cases h; exact .keep hcsr hctx

theorem State.StepsTo.of_agent {a : Turn} (h : agentTurn hardware exec a u = .next t) (hcsr : u.csr = s.csr)
    (hctx : u.ctx = s.ctx) : s.StepsTo t := by
  cases a with
  | processor => exact .of_processor h hcsr hctx
  | clock time ms =>
    simp only [agentTurn, clockTurn] at h
    split at h
    · cases h; exact .keep hcsr hctx
    · cases h
  | rst => cases h; exact .reset rfl rfl
  | issue words => cases h; exact .keep hcsr hctx

/-- Everything a step can do. -/
theorem step_cases (h : step s = .next t) : s.StepsTo t := by
  unfold step machineTurn at h
  split at h
  · exact .of_processor h rfl rfl
  · exact .of_agent h rfl rfl

theorem State.everyCtx_congr {p : Ctx → Bool} (h : t.ctx = s.ctx) : t.everyCtx p = s.everyCtx p := by
  simp only [State.everyCtx, h]

theorem everyCtx_of_allReset {p : Ctx → Bool} (h : t.ctx = Ctx.allReset hardware) (hp : p .reset = true) :
    t.everyCtx p = true := by
  rw [State.everyCtx_iff, h]
  exact fun c hc => by rw [List.eq_of_mem_replicate hc]; exact hp

/-- A property of contexts that the reset context has and every command keeps, every step keeps. -/
theorem State.StepsTo.everyCtx {p : Ctx → Bool} (h : s.StepsTo t) (hs : s.everyCtx p = true) (hreset : p .reset = true)
    (hexec : ∀ i u, u.everyCtx p = true → exec i u = .next t → t.everyCtx p = true) : t.everyCtx p = true := by
  cases h with
  | command i u h _ hctx => exact hexec i u (by rwa [State.everyCtx_congr hctx]) h
  | fault _ _ _ _ hctx => rwa [State.everyCtx_congr hctx]
  | keep _ hctx => rwa [State.everyCtx_congr hctx]
  | reset _ hctx => exact everyCtx_of_allReset hctx hreset

/-! ## Legal contexts -/

theorem Ctx.reset_legal : Ctx.reset.legal = true := (Bool.and_eq_true _ _ ▸ Ctx.reset_onSchedule).1

theorem State.Follows.everyCtx_legal (h : s.Follows t) (hs : s.everyCtx Ctx.legal = true) : t.everyCtx Ctx.legal = true :=
  h.everyCtx hs Ctx.reset_legal
    (fun _ _ _ _ hk => Ctx.legal_reseat rfl (Ctx.legal_configured rfl (mapped_of_configurable hk)) _)
    fun _ _ hrun hc hr => Ctx.Reworks.legal hr hrun hc

theorem length_allReset : (Ctx.allReset hardware).length = 64 := List.length_replicate

/-- A command keeps the number of contexts: it writes one of them, or resets all `NUM_CTX` (R39). -/
theorem State.Follows.length (h : s.Follows t) (hs : s.ctx.length = 64) : t.ctx.length = 64 := by
  have hctx := h.contexts
  generalize t.ctx = l at hctx ⊢
  cases hctx with
  | same => exact hs
  | reset => exact length_allReset
  | deconfig | config | rework => rwa [List.length_set]

theorem State.StepsTo.length (h : s.StepsTo t) (hs : s.ctx.length = 64) : t.ctx.length = 64 := by
  cases h with
  | command i u h _ hctx => exact (exec_follows h).length (by rwa [hctx])
  | fault _ _ _ _ hctx => rwa [hctx]
  | keep _ hctx => rwa [hctx]
  | reset _ hctx => rw [hctx]; exact length_allReset

end

end Sys2Proof.Machine

namespace Sys2Proof

open Machine

/-- Settles O16: a command reworks one configured context in ways that keep it well-formed, installs one with well-formed
mappings, or resets. -/
theorem stepKeepsContextsLegal : Obligations.StepKeepsContextsLegal := by
  intro s t hs hlen h
  have hstep := step_cases h
  exact ⟨hstep.everyCtx hs Ctx.reset_legal fun _ _ hu he => (exec_follows he).everyCtx_legal hu, hstep.length hlen⟩

end Sys2Proof
end

section
/-! PROOFS. Soft codes and tails: what each operation on the buffers of a decoder and of an encoder does to them (R11, R57
item 6, R115, R419). -/

namespace Sys2Proof.Machine

open Config (Params)

/-! ## Vectors whose elements all pass a test -/

section
variable {α : Type} {n : Nat} {p : α → Bool} {v : Vector α n}

theorem all_toList_iff : v.toList.all p = true ↔ ∀ i (h : i < n), p v[i] = true := by
  rw [List.all_eq_true]
  constructor
  · exact fun h i hi => h _ (by simp)
  · intro h x hx
    obtain ⟨i, hi, rfl⟩ := List.getElem_of_mem hx
    simpa using h i (by simpa using hi)

theorem all_vecOf {f : Nat → α} (h : ∀ i < n, p (f i) = true) : (vecOf n f).toList.all p = true :=
  all_toList_iff.2 fun i hi => by rw [getElem_vecOf]; exact h i hi

theorem all_replicate {a : α} (h : p a = true) : (Vector.replicate n a).toList.all p = true :=
  all_toList_iff.2 fun i hi => by rwa [Vector.getElem_replicate]

theorem all_set {i : Nat} {a : α} (hv : v.toList.all p = true) (h : p a = true) (hi : i < n) :
    (v.set i a).toList.all p = true :=
  all_toList_iff.2 fun j hj => by
    rw [Vector.getElem_set]
    split
    · exact h
    · exact all_toList_iff.1 hv j hj

theorem all_setIfInBounds {i : Nat} {a : α} (hv : v.toList.all p = true) (h : p a = true) :
    (v.setIfInBounds i a).toList.all p = true :=
  all_toList_iff.2 fun j hj => by
    rw [Vector.getElem_setIfInBounds]
    split
    · exact h
    · exact all_toList_iff.1 hv j hj

theorem getD_of_all {i : Nat} {a : α} (hv : v.toList.all p = true) (h : p a = true) : p (v.getD i a) = true := by
  by_cases hi : i < n
  · simpa [Vector.getD, hi] using all_toList_iff.1 hv i hi
  · simpa [Vector.getD, hi] using h

end

/-! ## Soft codes -/

/-- A soft code that is not the illegal one (R115). -/
abbrev softOK (q : Soft) : Bool := q != illegalSoft

theorem legalSoft_erased (n : Nat) : legalSoft (Vector.replicate n erasure) = true := all_replicate (p := softOK) rfl

theorem legalSoft_burstRow {sym : Vector Soft 148} (h : legalSoft sym = true) : legalSoft (burstRow sym) = true :=
  all_vecOf (p := softOK) fun i _ => by
    split <;> exact getD_of_all (p := softOK) h rfl

theorem softOK_cell {R : Nat} {rows : Vector (Vector Soft 114) R} (h : rows.toList.all legalSoft = true) (r j : Nat) :
    softOK (cell rows r j) = true := by
  refine getD_of_all (p := softOK) ?_ rfl
  rcases lt_or_ge r R with hr | hr
  · rw [Vector.getElem?_eq_getElem hr]
    exact all_toList_iff.1 h r hr
  · rw [Vector.getElem?_eq_none hr]
    exact legalSoft_erased 114

theorem legalSoft_deinterleave {R : Nat} {rows : Vector (Vector Soft 114) R} (h : rows.toList.all legalSoft = true)
    (off : Nat) : legalSoft (deinterleave off rows) = true :=
  all_vecOf (p := softOK) fun _ _ => softOK_cell h _ _

/-- Erasing cells brings no other code than the erasure (R211, R215). -/
theorem legalSoft_eraseConsumed {R : Nat} [NeZero R] {rows : Vector (Vector Soft 114) R}
    (h : rows.toList.all legalSoft = true) (off : Nat) : (eraseConsumed off rows).toList.all legalSoft = true := by
  refine List.foldlRecOn (motive := fun I : Vector (Vector Soft 114) R => I.toList.all legalSoft = true) _ _ h
    fun I hI k _ => ?_
  exact all_set hI (all_setIfInBounds (p := softOK) (all_toList_iff.1 hI _ _) rfl) _

/-- The soft cells of a decoder hold legal codes (R11, R115). -/
def Decoder.SoftLegal (d : Decoder) : Prop :=
  (d.dI4.toList.all legalSoft = true ∧ d.dI8.toList.all legalSoft = true) ∧
    (legalSoft d.dHl = true ∧ legalSoft d.dHu = true) ∧ legalSoft d.dC = true ∧ ∀ b ∈ d.rachQ, legalSoft b.sym = true

theorem Ctx.softLegal_iff (c : Ctx) : c.softLegal = true ↔ c.dec.SoftLegal := by
  simp [Ctx.softLegal, Decoder.SoftLegal, and_assoc]

theorem allLegal_erased (R : Nat) : (Vector.replicate R (Vector.replicate 114 erasure)).toList.all legalSoft = true :=
  all_replicate (legalSoft_erased 114)

theorem Decoder.softLegal_reset : Decoder.reset.SoftLegal :=
  ⟨⟨allLegal_erased 4, allLegal_erased 8⟩, ⟨legalSoft_erased 8, legalSoft_erased 8⟩, legalSoft_erased 456, nofun⟩

section
variable {d : Decoder} (hd : d.SoftLegal) {b : RxBurst} (hb : legalSoft b.sym = true)
include hd

theorem Decoder.softLegal_deinterleave4 :
    ({ d with dC := deinterleave 0 d.dI4, dI4 := eraseConsumed 0 d.dI4 } : Decoder).SoftLegal := by
  obtain ⟨⟨h4, h8⟩, hh, -, hq⟩ := hd
  refine ⟨⟨?_, h8⟩, hh, ?_, hq⟩ <;> dsimp only
  · exact legalSoft_eraseConsumed h4 0
  · exact legalSoft_deinterleave h4 0

theorem Decoder.softLegal_deinterleave8 (o : Nat) :
    ({ d with dC := deinterleave o d.dI8, dI8 := eraseConsumed o d.dI8 } : Decoder).SoftLegal := by
  obtain ⟨⟨h4, h8⟩, hh, -, hq⟩ := hd
  refine ⟨⟨h4, ?_⟩, hh, ?_, hq⟩ <;> dsimp only
  · exact legalSoft_eraseConsumed h8 o
  · exact legalSoft_deinterleave h8 o

include hb

theorem Decoder.softLegal_storeRow4 (B : Nat) : (d.storeRow4 B b).SoftLegal := by
  obtain ⟨⟨h4, h8⟩, hh, hC, hq⟩ := hd
  exact ⟨⟨all_setIfInBounds h4 (legalSoft_burstRow hb), h8⟩, hh, hC, hq⟩

theorem Decoder.softLegal_storeRow8 (B : Nat) : (d.storeRow8 B b).SoftLegal := by
  obtain ⟨⟨h4, h8⟩, ⟨hl, hu⟩, hC, hq⟩ := hd
  exact ⟨⟨h4, all_setIfInBounds h8 (legalSoft_burstRow hb)⟩,
    ⟨all_setIfInBounds (p := softOK) hl (getD_of_all (p := softOK) hb rfl),
      all_setIfInBounds (p := softOK) hu (getD_of_all (p := softOK) hb rfl)⟩, hC, hq⟩

theorem Decoder.softLegal_enqueue : ({ d with rachQ := d.rachQ ++ [b] } : Decoder).SoftLegal := by
  obtain ⟨hI, hh, hC, hq⟩ := hd
  refine ⟨hI, hh, hC, fun x hx => ?_⟩
  rcases List.mem_append.1 hx with hx | hx
  · exact hq x hx
  · rw [List.mem_singleton.1 hx]; exact hb

end

/-! ## Tails -/

/-- The tails of an encoder are zero (R57 item 6). -/
def Encoder.TailsZero (e : Encoder) : Prop := slice e.eU 224 4 = 0#4 ∧ slice e.tU 185 4 = 0#4

theorem Ctx.tailsZero_iff (c : Ctx) : c.tailsZero = true ↔ c.enc.TailsZero := by
  simp [Ctx.tailsZero, Encoder.TailsZero]

/-- Coding a frame keeps the tail of its block (R172). -/
theorem slice_xcchFill_tail (P : Params) (f : BitVec 184) (eU : BitVec 228) :
    slice (xcchFill P eU f) 224 4 = slice eU 224 4 := by
  rw [xcchFill_eq, slice_writeView_disjoint _ _ (by decide) (by decide),
    slice_writeView_disjoint _ _ (by decide) (by decide), slice_writeView_disjoint _ _ (by decide) (by decide)]

theorem Encoder.tailsZero_codeFrame {e : Encoder} (h : e.TailsZero) (P : Params) (f : BitVec 184) :
    (e.codeFrame P f).TailsZero :=
  ⟨(slice_xcchFill_tail P f e.eU).trans h.1, h.2⟩

theorem Encoder.tailsZero_composeSlot {e : Encoder} (h : e.TailsZero) (P : Params) :
    (e.composeSlot P).interleaveSlot.TailsZero := by
  unfold Encoder.composeSlot
  split
  · exact ⟨(slice_xcchFill_tail P _ e.eU).trans h.1, h.2⟩
  · split
    · exact ⟨h.1, slice_tchFold_tail P _⟩
    · exact h

end Sys2Proof.Machine
end

section
/-! PROOFS. What a command of each operation may write, said once: in its own context, in the registers and on the ports. O11,
O12, O13, O15 and O17 read it off. -/

namespace Sys2Proof

/-- The operations that append TX records (R84, R390). -/
abbrev Opcode.transmitting : List Opcode := [.l2Data, .idleFill, .schSend, .fcchSend, .tchSendSlot]

/-- The operations that append UP records (R84, R258, R390). -/
abbrev Opcode.reporting : List Opcode := [.l2Data, .idleFill, .schSend, .fcchSend, .tchSendSlot, .rxBurst, .rachService]

theorem Opcode.isGlobal_of_transmitting {o : Opcode} (h : o ∈ transmitting) : o.isGlobal = false :=
  (by decide : ∀ o ∈ transmitting, o.isGlobal = false) o h

theorem Opcode.reporting_of_transmitting {o : Opcode} (h : o ∈ transmitting) : o ∈ reporting :=
  (by decide : ∀ o ∈ transmitting, o ∈ reporting) o h

end Sys2Proof

namespace Sys2Proof.Machine

open Config (Params)

/-! ## Legal registers, part by part -/

/-- The contents of `FAULT` are legal (R32, R381). -/
def FaultLegal (w : Word) : Prop :=
  w.extractLsb' 24 7 = 0#7 ∧ (w.getLsbD 31 = true ∨ w = 0#32) ∧
    (w.getLsbD 31 = true → 1 ≤ (w.extractLsb' 8 8).toNat ∧ (w.extractLsb' 8 8).toNat ≤ 9)

/-- The contents of a timeout register are legal (R34). -/
def TimeoutLegal (w : Word) : Prop := 1 ≤ w.toNat ∧ w.toNat < 2 ^ 31

theorem Csr.legal_iff (r : Csr) : r.legal = true ↔ FaultLegal r.fault ∧ r.bsic.toNat < 64 ∧ TimeoutLegal r.t3101Ms ∧
    TimeoutLegal r.t3109Ms ∧ TimeoutLegal r.t3111Ms ∧ r.maxSpeechLatency.toNat ≤ 16 := by
  have himp : (!r.fault.getLsbD 31 || (decide (1 ≤ (r.fault.extractLsb' 8 8).toNat) &&
      decide ((r.fault.extractLsb' 8 8).toNat ≤ 9))) = true ↔ (r.fault.getLsbD 31 = true →
      1 ≤ (r.fault.extractLsb' 8 8).toNat ∧ (r.fault.extractLsb' 8 8).toNat ≤ 9) := by
    cases r.fault.getLsbD 31 <;> simp
  rw [Csr.legal]
  simp only [Bool.and_eq_true (_ && _), Bool.and_eq_true (_ == _), himp, Bool.or_eq_true, beq_iff_eq, decide_eq_true_eq,
    FaultLegal, TimeoutLegal, and_assoc]

/-- The fields of the word that a fault writes (R384). -/
theorem faultWord_fields (opc ch : BitVec 8) (f : FaultCode) : (faultWord opc ch f).extractLsb' 24 7 = 0#7 ∧
    (faultWord opc ch f).getLsbD 31 = true ∧ (faultWord opc ch f).extractLsb' 8 8 = f.code := by
  refine ⟨?_, ?_, ?_⟩
  · rw [faultWord, BitVec.extractLsb'_append_eq_of_le (by decide), BitVec.extractLsb'_append_eq_of_le (by decide),
      BitVec.extractLsb'_append_eq_of_le (by decide), BitVec.extractLsb'_append_eq_right]
  · simp only [faultWord, BitVec.getLsbD_append]
    rfl
  · rw [faultWord, BitVec.extractLsb'_append_eq_of_le (by decide), BitVec.extractLsb'_append_eq_right]

theorem FaultCode.code_range (f : FaultCode) : 1 ≤ f.code.toNat ∧ f.code.toNat ≤ 9 := by
  cases f <;> decide

theorem faultLegal_faultWord (opc ch : BitVec 8) (f : FaultCode) : FaultLegal (faultWord opc ch f) := by
  obtain ⟨hz, hset, hcode⟩ := faultWord_fields opc ch f
  exact ⟨hz, .inl hset, fun _ => by rw [hcode]; exact f.code_range⟩

/-- Taking a fault keeps the registers legal (R381, R384). -/
theorem Csr.legal_fault {r : Csr} (h : r.legal = true) (opc ch : BitVec 8) (f : FaultCode) :
    ({ r with fault := faultWord opc ch f } : Csr).legal = true := by
  rw [Csr.legal_iff] at h ⊢
  exact ⟨faultLegal_faultWord opc ch f, h.2⟩

theorem Csr.reset_legal : (Csr.reset hardware).legal = true := by decide

/-! ## What a command may write -/

/-- What a command of operation `o` may write in an encoder: the flags only where R41 lists it, the tails never (R57). -/
structure Encoder.Writes (o : Opcode) (e e' : Encoder) : Prop where
  active : o ∉ [.chConfig, .chDeconfig, .l2Establish, .l2Release, .l2Error] → e'.active = e.active
  facch  : o ∉ [.chConfig, .chDeconfig, .l2Establish, .tchSendSlot] →
    e'.curFACCH = e.curFACCH ∧ e'.prevFACCH = e.prevFACCH
  tails  : e.TailsZero → e'.TailsZero

/-- What a command of operation `o` may write in a decoder: the flags only where R41 and R366 list it, `phyNew` only in the
direction listed, soft cells only with legal codes (R11). -/
structure Decoder.Writes (o : Opcode) (d d' : Decoder) : Prop where
  accepting : o ∉ [.chConfig, .chDeconfig, .l2Establish, .l2Release] → d'.accepting = d.accepting
  phyNew    : o ∉ [.chConfig, .chDeconfig, .l2Establish, .rxBurst, .phyRead] → d'.phyNew = d.phyNew
  sets      : o = .rxBurst → d.phyNew = true → d'.phyNew = true
  clears    : o = .phyRead → d'.phyNew = true → d.phyNew = true
  soft      : d.SoftLegal → d'.SoftLegal

/-- What a command of operation `o` may write in a context. -/
structure Ctx.Writes (o : Opcode) (c c' : Ctx) : Prop where
  cfg : o ∉ [.chConfig, .chDeconfig] → c'.cfg = c.cfg
  enc : c.enc.Writes o c'.enc
  dec : c.dec.Writes o c'.dec

/-- What a command of operation `o` may write in the registers, faults aside (R36, R270, R287). -/
structure Csr.Writes (o : Opcode) (r r' : Csr) : Prop where
  kept      : o ≠ .csrWrite → r' = { r with rachDrops := r'.rachDrops }
  rachDrops : o ≠ .rxBurst → r'.rachDrops = r.rachDrops
  fault     : r'.fault = r.fault
  legal     : r.legal = true → r'.legal = true

/-- What a command of operation `o` on context `ch` may write, faults and `RESET` aside: that context, none if it is global or
pure (R113), the registers, and records where it is one that appends some. -/
structure State.Writes (o : Opcode) (ch : BitVec 8) (s t : State) : Prop where
  csr    : s.csr.Writes o t.csr
  ctx    : ∃ c, t.ctx = s.ctx.set ch.toNat c ∧ (s.getCtx ch).Writes o c
  global : o.isGlobal = true → t.ctx = s.ctx
  tx     : o ∉ Opcode.transmitting → t.tx = s.tx
  up     : o ∉ Opcode.reporting → t.up = s.up

section
variable {o : Opcode}

/-! ## One write after another -/

theorem Encoder.Writes.refl (e : Encoder) : e.Writes o e := ⟨fun _ => rfl, fun _ => ⟨rfl, rfl⟩, id⟩

theorem Encoder.Writes.trans {e e' e'' : Encoder} (h : e.Writes o e') (h' : e'.Writes o e'') : e.Writes o e'' :=
  ⟨fun ho => (h'.active ho).trans (h.active ho),
    fun ho => ⟨(h'.facch ho).1.trans (h.facch ho).1, (h'.facch ho).2.trans (h.facch ho).2⟩, h'.tails ∘ h.tails⟩

theorem Decoder.Writes.refl (d : Decoder) : d.Writes o d :=
  ⟨fun _ => rfl, fun _ => rfl, fun _ => id, fun _ => id, id⟩

theorem Decoder.Writes.trans {d d' d'' : Decoder} (h : d.Writes o d') (h' : d'.Writes o d'') : d.Writes o d'' :=
  ⟨fun ho => (h'.accepting ho).trans (h.accepting ho), fun ho => (h'.phyNew ho).trans (h.phyNew ho),
    fun ho => h'.sets ho ∘ h.sets ho, fun ho => h.clears ho ∘ h'.clears ho, h'.soft ∘ h.soft⟩

theorem Ctx.Writes.refl (c : Ctx) : c.Writes o c := ⟨fun _ => rfl, .refl _, .refl _⟩

theorem Ctx.Writes.trans {c c' c'' : Ctx} (h : c.Writes o c') (h' : c'.Writes o c'') : c.Writes o c'' :=
  ⟨fun ho => (h'.cfg ho).trans (h.cfg ho), h.enc.trans h'.enc, h.dec.trans h'.dec⟩

theorem Ctx.Writes.encoder {c : Ctx} {e : Encoder} (h : c.enc.Writes o e) : c.Writes o { c with enc := e } :=
  ⟨fun _ => rfl, h, .refl _⟩

theorem Ctx.Writes.decoder {c : Ctx} {d : Decoder} (h : c.dec.Writes o d) : c.Writes o { c with dec := d } :=
  ⟨fun _ => rfl, .refl _, h⟩

theorem Csr.Writes.refl (r : Csr) : r.Writes o r := ⟨fun _ => rfl, fun _ => rfl, rfl, id⟩

theorem Csr.Writes.trans {r r' r'' : Csr} (h : r.Writes o r') (h' : r'.Writes o r'') : r.Writes o r'' := by
  refine ⟨fun ho => ?_, fun ho => (h'.rachDrops ho).trans (h.rachDrops ho), h'.fault.trans h.fault, h'.legal ∘ h.legal⟩
  have e := h.kept ho
  generalize r'.rachDrops = n at e
  subst e
  exact h'.kept ho

section
variable {ch : BitVec 8} {s t u : State}

theorem State.Writes.refl (s : State) : s.Writes o ch s :=
  ⟨.refl _, ⟨_, (congrArg State.ctx (State.setCtx_getCtx s ch)).symm, .refl _⟩, fun _ => rfl, fun _ => rfl, fun _ => rfl⟩

/-- The context a command names is written as it may write it; every other one stays (R39). -/
theorem State.Writes.getCtx (h : s.Writes o ch t) (c : BitVec 8) : (s.getCtx c).Writes o (t.getCtx c) := by
  obtain ⟨x, hx, hw⟩ := h.ctx
  have ht : t.getCtx c = (s.setCtx ch x).getCtx c := State.getCtx_congr hx c
  by_cases hc : c = ch
  · subst hc
    rcases Nat.lt_or_ge c.toNat s.ctx.length with hlt | hge
    · rwa [ht, State.getCtx_setCtx_self _ _ hlt]
    · rw [ht, State.setCtx, List.set_eq_of_length_le hge]
      exact .refl _
  · rw [ht, State.getCtx_setCtx_of_ne _ _ hc]
    exact .refl _

theorem State.Writes.getCtx_of_ne (h : s.Writes o ch t) {c : BitVec 8} (hc : c ≠ ch) : t.getCtx c = s.getCtx c := by
  obtain ⟨x, hx, -⟩ := h.ctx
  exact (State.getCtx_congr (t := s.setCtx ch x) hx c).trans (s.getCtx_setCtx_of_ne _ hc)

theorem State.Writes.trans (h : s.Writes o ch t) (h' : t.Writes o ch u) : s.Writes o ch u := by
  have hget := h.getCtx ch
  obtain ⟨c, hc, -⟩ := h.ctx
  obtain ⟨c', hc', hw'⟩ := h'.ctx
  exact ⟨h.csr.trans h'.csr, ⟨c', by rw [hc', hc, List.set_set], hget.trans hw'⟩,
    fun ho => (h'.global ho).trans (h.global ho), fun ho => (h'.tx ho).trans (h.tx ho),
    fun ho => (h'.up ho).trans (h.up ho)⟩

/-- Answers, the held command, the clocks, the command port and the agents are not part of what is written. -/
theorem State.Writes.congr (h : s.Writes o ch t) (hcsr : u.csr = t.csr) (hctx : u.ctx = t.ctx) (htx : u.tx = t.tx)
    (hup : u.up = t.up) : s.Writes o ch u := by
  refine ⟨?_, ?_, ?_, ?_, ?_⟩
  · rw [hcsr]; exact h.csr
  · rw [hctx]; exact h.ctx
  · rw [hctx]; exact h.global
  · rw [htx]; exact h.tx
  · rw [hup]; exact h.up

theorem State.Writes.setCtx {c : Ctx} (ho : o.isGlobal = false) (h : (s.getCtx ch).Writes o c) :
    s.Writes o ch (s.setCtx ch c) :=
  ⟨.refl _, ⟨c, rfl, h⟩, fun h => by simp [ho] at h, fun _ => rfl, fun _ => rfl⟩

theorem State.Writes.updEnc {f : Encoder → Encoder} (ho : o.isGlobal = false)
    (h : (s.getCtx ch).enc.Writes o (f (s.getCtx ch).enc)) : s.Writes o ch (s.updEnc ch f) := .setCtx ho (.encoder h)

theorem State.Writes.updDec {f : Decoder → Decoder} (ho : o.isGlobal = false)
    (h : (s.getCtx ch).dec.Writes o (f (s.getCtx ch).dec)) : s.Writes o ch (s.updDec ch f) := .setCtx ho (.decoder h)

theorem State.Writes.setCsr {r : Csr} (h : s.csr.Writes o r) : s.Writes o ch { s with csr := r } :=
  { State.Writes.refl (o := o) (ch := ch) s with csr := h }

theorem State.Writes.emitTx (h : s.Writes o ch t) (ho : o ∈ Opcode.transmitting) (r : List Word) :
    s.Writes o ch (t.emitTx r) :=
  ⟨h.csr, h.ctx, h.global, fun hn => absurd ho hn, h.up⟩

theorem State.Writes.emitUp (h : s.Writes o ch t) (ho : o ∈ Opcode.reporting) (r : List Word) :
    s.Writes o ch (t.emitUp r) :=
  ⟨h.csr, h.ctx, h.global, h.tx, fun hn => absurd ho hn⟩

/-- A property of contexts that the writes of every operation keep. -/
theorem State.Writes.everyCtx {p : Ctx → Bool} (h : s.Writes o ch t) (hs : s.everyCtx p = true) (hreset : p .reset = true)
    (hp : ∀ c c', c.Writes o c' → p c = true → p c' = true) : t.everyCtx p = true := by
  obtain ⟨x, hx, hw⟩ := h.ctx
  have hget : p (s.getCtx ch) = true := by
    rcases s.getCtx_mem_or_reset ch with hc | hc
    · exact State.everyCtx_iff.1 hs _ hc
    · rw [hc]; exact hreset
  rw [State.everyCtx_iff] at hs ⊢
  rw [hx]
  exact fun c hc => (List.mem_or_eq_of_mem_set hc).elim (hs c) fun e => e ▸ hp _ _ hw hget

end

/-! ## Schedules, opening and closing -/

/-- A context that differs from `c` in its schedule. -/
theorem Ctx.Writes.scheduled (c : Ctx) (n p : Time) (b : BitVec 32) :
    c.Writes o { c with enc := { c.enc with nextWT := n, prevWT := p, totalBursts := b } } :=
  .encoder ⟨fun _ => rfl, fun _ => ⟨rfl, rfl⟩, id⟩

theorem Ctx.writes_reseat (P : Params) (c : Ctx) (t : Time) : c.Writes o (c.reseat P t) := by
  obtain ⟨n, p, e⟩ := c.reseat_frame P t
  rw [e]
  exact .scheduled c n p _

theorem Ctx.writes_resync (P : Params) (c : Ctx) (t : Time) : c.Writes o (c.resync P t) := by
  obtain ⟨n, p, e⟩ := c.resync_frame P t
  rw [e]
  exact .scheduled c n p _

theorem Ctx.writes_roll (P : Params) (c : Ctx) : c.Writes o (c.roll P) := by
  obtain ⟨n, p, b, e⟩ := c.roll_frame P
  rw [e]
  exact .scheduled c n p b

/-- An encoder that a command opens keeps its buffers, and so their tails (R277). -/
theorem Ctx.tailsZero_openEnc {c : Ctx} (h : c.enc.TailsZero) (t : Time) : (c.openEnc hardware t).enc.TailsZero := by
  obtain ⟨n, p, e⟩ := c.openedEnc.reseat_frame hardware t
  have hr : (c.openedEnc.reseat hardware t).enc.TailsZero := by rw [e]; exact h
  unfold Ctx.openEnc
  simp only
  split <;> exact hr

/-- Opening a decoder erases its soft cells but for the decoded block (R277). -/
theorem Ctx.openDec_cells (c : Ctx) (ia : Bool) (ms : Word) (r : Csr) :
    (c.openDec ia ms r).dec.dI4 = Vector.replicate 4 (Vector.replicate 114 erasure) ∧
    (c.openDec ia ms r).dec.dI8 = Vector.replicate 8 (Vector.replicate 114 erasure) ∧
    (c.openDec ia ms r).dec.dHl = Vector.replicate 8 erasure ∧ (c.openDec ia ms r).dec.dHu = Vector.replicate 8 erasure ∧
    (c.openDec ia ms r).dec.dC = c.dec.dC := by
  cases hk : c.cfg.kind <;> simp [Ctx.openDec, hk, Kind.hasTimers]

theorem Ctx.softLegal_openDec {c : Ctx} (h : c.dec.SoftLegal) (ia : Bool) (ms : Word) (r : Csr) :
    (c.openDec ia ms r).dec.SoftLegal := by
  obtain ⟨h4, h8, hl, hu, hC⟩ := c.openDec_cells ia ms r
  obtain ⟨-, -, hCl, hq⟩ := h
  rw [Decoder.SoftLegal, h4, h8, hl, hu, hC]
  refine ⟨⟨allLegal_erased 4, allLegal_erased 8⟩, ⟨legalSoft_erased 8, legalSoft_erased 8⟩, hCl, fun b hb => ?_⟩
  rcases (c.openDec_dec ia ms r).1 with e | e <;> rw [e] at hb
  · simp at hb
  · exact hq b hb

theorem Ctx.writes_open (c : Ctx) (ia : Bool) (t : Time) (ms : Word) (r : Csr) :
    c.Writes .l2Establish (c.open hardware ia t ms r) := by
  refine ⟨fun _ => Ctx.open_cfg _ _ _ _ _ _, ⟨nofun, nofun, fun h => ?_⟩, ⟨nofun, nofun, nofun, nofun, fun h => ?_⟩⟩
  · rw [Ctx.open_enc]
    split
    · exact Ctx.tailsZero_openEnc h t
    · exact h
  · rw [Ctx.open_dec]
    split
    · exact Ctx.softLegal_openDec h ia ms r
    · exact h

end

end Sys2Proof.Machine
end

section
/-! PROOFS. What each command writes, command by command, and everything a command can do: write so, fault, or reset. -/

namespace Sys2Proof.Machine

open Config (Params)

section
variable {o : Opcode}

/-! ## Contexts and registers -/

theorem Ctx.writes_closeEnc (ho : o ∈ [Opcode.l2Release, Opcode.l2Error]) (c : Ctx) : c.Writes o c.closeEnc := by
  have hact : o ∈ [Opcode.chConfig, .chDeconfig, .l2Establish, .l2Release, .l2Error] :=
    (by decide : ∀ o ∈ [Opcode.l2Release, Opcode.l2Error], _) o ho
  unfold Ctx.closeEnc
  split
  · exact .encoder ⟨fun hn => absurd hact hn, fun _ => ⟨rfl, rfl⟩, id⟩
  · exact .refl c

theorem Ctx.writes_closeDec (c : Ctx) (ms : Word) (r : Csr) : c.Writes .l2Release (c.closeDec ms r) := by
  unfold Ctx.closeDec
  split
  · refine .decoder ?_
    simp only
    split <;> exact ⟨nofun, fun _ => rfl, nofun, nofun, id⟩
  · exact .refl c

/-- Installing a context that has the buffers of the reset context (R272, R273). -/
theorem Ctx.writes_installed (ho : o ∈ [Opcode.chConfig, Opcode.chDeconfig]) (c c' : Ctx) (he : c'.enc.TailsZero)
    (hd : c'.dec.SoftLegal) : c.Writes o c' := by
  have hc := (by decide : ∀ o ∈ [Opcode.chConfig, Opcode.chDeconfig], o ≠ .rxBurst ∧ o ≠ .phyRead) o ho
  have hin : ∀ l : List Opcode, o ∈ .chConfig :: .chDeconfig :: l := fun l => by
    simp only [List.mem_cons, List.not_mem_nil, or_false] at ho ⊢
    exact ho.elim .inl (.inr ∘ .inl)
  exact ⟨fun hn => absurd ho hn, ⟨fun hn => absurd (hin _) hn, fun hn => absurd (hin _) hn, fun _ => he⟩,
    ⟨fun hn => absurd (hin _) hn, fun hn => absurd (hin _) hn, fun h => absurd h hc.1, fun h => absurd h hc.2,
      fun _ => hd⟩⟩

theorem Encoder.tailsZero_reset : Encoder.reset.TailsZero := ⟨rfl, rfl⟩

theorem timeoutLegal_of_legalTimeout {v : Word} (h : legalTimeout v = true) : TimeoutLegal v := by
  simp only [legalTimeout, Bool.and_eq_true, bne_iff_ne, Bool.not_eq_true', BitVec.msb_eq_false_iff_two_mul_lt] at h
  exact ⟨Nat.pos_of_ne_zero fun e => h.1 (BitVec.eq_of_toNat_eq e), by omega⟩

/-- A register value that `CSR_WRITE` takes is legal (R33 to R35, R270). -/
theorem Csr.writes_write {r r' : Csr} {i : BitVec 16} {v : Word} (h : r.write hardware i v = some r') :
    r.Writes .csrWrite r' := by
  have htaken : ∀ {r0 : Csr}, (if legalTimeout v then some r0 else none) = some r' → TimeoutLegal v ∧ r0 = r' := fun h =>
    (Option.ite_none_right_eq_some.1 h).imp timeoutLegal_of_legalTimeout (Option.some.inj)
  unfold Csr.write at h
  split at h
  · cases h
    refine ⟨nofun, fun _ => rfl, rfl, fun hr => ?_⟩
    obtain ⟨hf, -, hrest⟩ := (Csr.legal_iff _).1 hr
    refine (Csr.legal_iff _).2 ⟨hf, ?_, hrest⟩
    rw [BitVec.toNat_setWidth_of_le (by decide)]
    exact (v.extractLsb' 0 6).isLt
  · obtain ⟨hv, rfl⟩ := htaken h
    refine ⟨nofun, fun _ => rfl, rfl, fun hr => ?_⟩
    obtain ⟨hf, hb, -, hrest⟩ := (Csr.legal_iff _).1 hr
    exact (Csr.legal_iff _).2 ⟨hf, hb, hv, hrest⟩
  · obtain ⟨hv, rfl⟩ := htaken h
    refine ⟨nofun, fun _ => rfl, rfl, fun hr => ?_⟩
    obtain ⟨hf, hb, h3101, -, hrest⟩ := (Csr.legal_iff _).1 hr
    exact (Csr.legal_iff _).2 ⟨hf, hb, h3101, hv, hrest⟩
  · obtain ⟨hv, rfl⟩ := htaken h
    refine ⟨nofun, fun _ => rfl, rfl, fun hr => ?_⟩
    obtain ⟨hf, hb, h3101, h3109, -, hcap⟩ := (Csr.legal_iff _).1 hr
    exact (Csr.legal_iff _).2 ⟨hf, hb, h3101, h3109, hv, hcap⟩
  · obtain ⟨hv, e⟩ := Option.ite_none_right_eq_some.1 h
    cases e
    refine ⟨nofun, fun _ => rfl, rfl, fun hr => ?_⟩
    obtain ⟨hf, hb, h3101, h3109, h3111, -⟩ := (Csr.legal_iff _).1 hr
    refine (Csr.legal_iff _).2 ⟨hf, hb, h3101, h3109, h3111, ?_⟩
    rw [BitVec.toNat_setWidth_of_le (by decide)]
    exact hv
  · cases h

section
variable {ch : BitVec 8} {s t u done : State} {checks : List (Bool × FaultCode)}

/-! ## Sending -/

theorem State.Writes.sendBurst (ho : o ∈ Opcode.transmitting) (s : State) (b : BitVec 148) :
    s.Writes o ch (s.sendBurst hardware ch b) :=
  (((State.Writes.refl s).emitTx ho _).trans
    (.setCtx (Opcode.isGlobal_of_transmitting ho) (Ctx.writes_roll hardware _))).emitUp
      (Opcode.reporting_of_transmitting ho) _

theorem State.Writes.sendBursts (ho : o ∈ Opcode.transmitting) (s : State) (bs : List (BitVec 148)) :
    s.Writes o ch (s.sendBursts hardware ch bs) := by
  induction bs generalizing s with
  | nil => exact .refl s
  | cons b bs ih => exact (State.Writes.sendBurst ho s b).trans (ih _)

theorem State.Writes.idleStep (ho : o ∈ Opcode.transmitting) (s : State) : s.Writes o ch (s.idleStep hardware ch) := by
  unfold State.idleStep
  split
  · exact .sendBurst ho s _
  · exact (State.Writes.setCtx (Opcode.isGlobal_of_transmitting ho) (Ctx.writes_roll hardware _)).emitUp
      (Opcode.reporting_of_transmitting ho) _

theorem State.Writes.idleSteps (ho : o ∈ Opcode.transmitting) (s : State) (n : Nat) :
    s.Writes o ch (s.idleSteps hardware ch n) := by
  induction n with
  | zero => exact .refl s
  | succ n ih => exact ih.trans (.idleStep ho _)

theorem State.Writes.sendFrame (s : State) (f : BitVec 184) : s.Writes .l2Data ch (s.sendFrame hardware ch f) :=
  (State.Writes.updEnc rfl ⟨fun _ => rfl, fun _ => ⟨rfl, rfl⟩, fun h => Encoder.tailsZero_codeFrame h _ _⟩).trans
    (.sendBursts (by decide) _ _)

/-- Composing a slot says whether it is stolen; which flags it leaves is R324's. -/
theorem Encoder.writes_composeSlot (e : Encoder) :
    e.Writes .tchSendSlot ((e.composeSlot hardware).interleaveSlot) := by
  refine ⟨fun _ => ?_, nofun, fun h => Encoder.tailsZero_composeSlot h _⟩
  unfold Encoder.composeSlot
  split
  · rfl
  · split <;> rfl

theorem State.Writes.sendSlot (s : State) : s.Writes .tchSendSlot ch (s.sendSlot hardware ch) := by
  unfold State.sendSlot
  simp only
  exact ((State.Writes.updEnc rfl (Encoder.writes_composeSlot _)).trans (.sendBursts (by decide) _ _)).trans
    (.updEnc rfl ⟨fun _ => rfl, nofun, id⟩)

/-! ## Receiving -/

/-- A decoder that keeps its flags and its soft cells. -/
theorem Decoder.Writes.of_frame {d d' : Decoder} (hacc : d'.accepting = d.accepting) (hnew : d'.phyNew = d.phyNew)
    (hI : d'.dI4 = d.dI4 ∧ d'.dI8 = d.dI8) (hH : d'.dHl = d.dHl ∧ d'.dHu = d.dHu) (hC : d'.dC = d.dC)
    (hq : d'.rachQ = d.rachQ) : d.Writes o d' := by
  refine ⟨fun _ => hacc, fun _ => hnew, fun _ => hnew.trans, fun _ => hnew.symm.trans, fun hd => ?_⟩
  rw [Decoder.SoftLegal, hI.1, hI.2, hH.1, hH.2, hC, hq]
  exact hd

theorem Decoder.writes_decodeBlock (P : Params) (d : Decoder) (ms : Word) (r : Csr) :
    d.Writes o (d.decodeBlock P ms r) := by
  unfold Decoder.decodeBlock
  split <;> exact .of_frame rfl rfl ⟨rfl, rfl⟩ ⟨rfl, rfl⟩ rfl rfl

theorem Decoder.writes_decodeSpeech (P : Params) (d : Decoder) (ms : Word) (r : Csr) :
    d.Writes o (d.decodeSpeech P ms r) := by
  unfold Decoder.decodeSpeech
  simp only
  split <;> exact .of_frame rfl rfl ⟨rfl, rfl⟩ ⟨rfl, rfl⟩ rfl rfl

theorem Decoder.writes_sacchHeader (d : Decoder) : d.Writes o d.sacchHeader :=
  .of_frame rfl rfl ⟨rfl, rfl⟩ ⟨rfl, rfl⟩ rfl rfl

theorem State.Writes.setDec {d : Decoder} (h : (s.getCtx ch).dec.Writes .rxBurst d) :
    s.Writes .rxBurst ch (s.updDec ch fun _ => d) := .updDec rfl h

theorem State.Writes.xcchBlockEnd (s : State) (t : Time) : s.Writes .rxBurst ch (s.xcchBlockEnd hardware ch t) := by
  have hblock : (s.getCtx ch).dec.Writes .rxBurst ({ (s.getCtx ch).dec with
      dC := deinterleave 0 (s.getCtx ch).dec.dI4, dI4 := eraseConsumed 0 (s.getCtx ch).dec.dI4 } : Decoder) :=
    ⟨fun _ => rfl, fun _ => rfl, fun _ => id, fun _ => id, Decoder.softLegal_deinterleave4⟩
  have hdec := hblock.trans (Decoder.writes_decodeBlock hardware _ s.nowMs s.csr)
  unfold State.xcchBlockEnd
  simp only
  split
  · split
    · exact (State.Writes.setDec (hdec.trans (Decoder.writes_sacchHeader _))).emitUp (by decide) _
    · exact (State.Writes.setDec hdec).emitUp (by decide) _
  · exact .setDec hdec

theorem State.Writes.xcchReceive (s : State) {b : RxBurst} (hb : legalSoft b.sym = true) :
    s.Writes .rxBurst ch (s.xcchReceive hardware ch b) := by
  have hstore : s.Writes .rxBurst ch (s.updDec ch fun d => d.storeRow4 (burstIndex (s.getCtx ch) b.time.fn 4) b) :=
    .updDec rfl ⟨fun _ => rfl, nofun, fun _ _ => rfl, nofun, fun h => Decoder.softLegal_storeRow4 h hb _⟩
  unfold State.xcchReceive
  simp only
  split
  · exact hstore.trans (.xcchBlockEnd _ _)
  · exact hstore

theorem State.Writes.facchBlock (s : State) (t : Time) : s.Writes .rxBurst ch (s.facchBlock hardware ch t) := by
  have hdec : s.Writes .rxBurst ch (s.updDec ch fun _ => (s.getCtx ch).dec.decodeBlock hardware s.nowMs s.csr) :=
    .setDec (Decoder.writes_decodeBlock hardware _ _ _)
  unfold State.facchBlock
  simp only
  split
  · exact (hdec.emitUp (by decide) _).emitUp (by decide) _
  · exact hdec.emitUp (by decide) _

theorem State.Writes.speechBlock (s : State) (t : Time) : s.Writes .rxBurst ch (s.speechBlock hardware ch t) := by
  have hdec : s.Writes .rxBurst ch (s.updDec ch fun _ => (s.getCtx ch).dec.decodeSpeech hardware s.nowMs s.csr) :=
    .setDec (Decoder.writes_decodeSpeech hardware _ _ _)
  unfold State.speechBlock
  simp only
  split <;> exact hdec.emitUp (by decide) _

theorem State.Writes.tchBlockEnd (s : State) (B : Nat) (t : Time) :
    s.Writes .rxBurst ch (s.tchBlockEnd hardware ch B t) := by
  have hblock : s.Writes .rxBurst ch (s.updDec ch fun d =>
      { d with dC := deinterleave (endOffset B).toNat d.dI8, dI8 := eraseConsumed (endOffset B).toNat d.dI8 }) :=
    .updDec rfl ⟨fun _ => rfl, fun _ => rfl, fun _ => id, fun _ => id, fun h => Decoder.softLegal_deinterleave8 h _⟩
  unfold State.tchBlockEnd
  simp only
  split
  · exact hblock.trans (.facchBlock _ t)
  · exact hblock.trans (.speechBlock _ t)

theorem State.Writes.tchReceive (s : State) {b : RxBurst} (hb : legalSoft b.sym = true) :
    s.Writes .rxBurst ch (s.tchReceive hardware ch b) := by
  have hstore : s.Writes .rxBurst ch (s.updDec ch fun d => d.storeRow8 (burstIndex (s.getCtx ch) b.time.fn 8) b) :=
    .updDec rfl ⟨fun _ => rfl, nofun, fun _ _ => rfl, nofun, fun h => Decoder.softLegal_storeRow8 h hb _⟩
  unfold State.tchReceive
  simp only
  split
  · exact hstore.trans (.tchBlockEnd _ _ _)
  · exact hstore

theorem State.Writes.rachEnqueue (s : State) {b : RxBurst} (hb : legalSoft b.sym = true) :
    s.Writes .rxBurst ch (s.rachEnqueue hardware ch b) := by
  unfold State.rachEnqueue
  split
  · exact .updDec rfl ⟨fun _ => rfl, nofun, fun _ => id, nofun, fun h => Decoder.softLegal_enqueue h hb⟩
  · exact .setCsr ⟨fun _ => rfl, nofun, rfl, id⟩

theorem State.Writes.acceptBurst (s : State) {b : RxBurst} (hb : legalSoft b.sym = true) :
    s.Writes .rxBurst ch (s.acceptBurst hardware ch b) := by
  unfold State.acceptBurst
  split
  · exact .rachEnqueue s hb
  · exact .xcchReceive s hb
  · exact .xcchReceive s hb
  · exact .tchReceive s hb
  all_goals exact .refl s

theorem Decoder.writes_fer (d : Decoder) (f : BitVec 32) : d.Writes o { d with fer := f } :=
  .of_frame rfl rfl ⟨rfl, rfl⟩ ⟨rfl, rfl⟩ rfl rfl

theorem State.Writes.rachDecode (s : State) (b : RxBurst) : s.Writes .rachService ch (s.rachDecode hardware ch b) := by
  unfold State.rachDecode
  split
  · exact (State.Writes.updDec rfl (Decoder.writes_fer _ _)).emitUp (by decide) _
  · exact .updDec rfl (Decoder.writes_fer _ _)

/-! ## Everything a command can do -/

/-- Everything that a command of operation `o` on context `ch` can do. -/
inductive State.Runs (o : Opcode) (ch : BitVec 8) (s t : State) : Prop where
  /-- It completes, holds or is blocked; it writes what its operation may write. -/
  | writes (h : s.Writes o ch t)
  /-- It takes a fault (R384). -/
  | fault (f : FaultCode) (h : t = s.takeFault o.code ch f)
  /-- It is `RESET` (R276). -/
  | reset (ho : o = .reset) (h : t = (s.resetEffect hardware).complete .reset [])

theorem State.Runs.command {e : Result} (h : s.command o ch checks e = .next t)
    (he : firstFault checks = none → e = .next t → s.Writes o ch t) : s.Runs o ch t := by
  rcases State.command_cases h with ⟨-, rfl⟩ | ⟨-, f, -, rfl⟩ | ⟨-, hf, hn⟩
  · exact .writes ((State.Writes.refl s).congr rfl rfl rfl rfl)
  · exact .fault f rfl
  · exact .writes (he hf hn)

/-- An effect that completes: `u` is the state it answers from. -/
theorem State.Writes.completed {o' : Opcode} {ws : List Word}
    (h : (Host.Outcome.next (u.complete o' ws) : Result) = .next t) (hu : s.Writes o ch u) : s.Writes o ch t := by
  cases h
  exact hu.congr rfl rfl rfl rfl

theorem State.Runs.pure {ws : List Word} (h : s.command o ch checks (.next (s.complete o ws)) = .next t) :
    s.Runs o ch t :=
  .command h fun _ hn => .completed hn (.refl s)

/-- A command that waits has its effect or holds (R392). -/
theorem State.Writes.waits {o' : Opcode} {i : Instr} {w : Time} {ws : List Word}
    (h : s.waitToSend hardware i w (done.complete o' ws) = .next t) (hd : s.Writes o ch done) : s.Writes o ch t := by
  rcases State.waitToSend_cases h with ⟨-, rfl⟩ | ⟨-, rfl⟩
  · exact hd.congr rfl rfl rfl rfl
  · exact (State.Writes.refl s).congr rfl rfl rfl rfl

/-! ## Command by command -/

variable {arg : BitVec 16}

theorem execCsrWrite_runs {v : Word} (h : execCsrWrite ch arg v s = .next t) : s.Runs .csrWrite ch t :=
  .command h fun hf hn => by
    obtain ⟨r, hr⟩ : ∃ r, s.csr.write hardware arg v = some r := by
      simpa [Option.isSome_iff_exists] using
        check_passed hf (p := ((s.csr.write hardware arg v).isNone, .badArgument)) (by simp)
    rw [hr] at hn
    exact .completed hn (.setCsr (Csr.writes_write hr))

theorem execCsrRead_runs (h : execCsrRead ch arg s = .next t) : s.Runs .csrRead ch t := by
  unfold execCsrRead at h
  split at h
  · exact .writes (.completed h (.refl s))
  · split at h <;> cases h
    · exact .writes ((State.Writes.refl s).congr rfl rfl rfl rfl)
    · exact .fault _ rfl

theorem execChConfig_runs {w0 : Word} {tx rx : MapRecord} (h : execChConfig ch arg w0 tx rx s = .next t) :
    s.Runs .chConfig ch t :=
  .command h fun _ hn => .completed hn <| .setCtx rfl <|
    (Ctx.writes_installed (by decide) _ _ Encoder.tailsZero_reset Decoder.softLegal_reset).trans
      (Ctx.writes_reseat hardware _ _)

theorem execChDeconfig_runs (h : execChDeconfig ch arg s = .next t) : s.Runs .chDeconfig ch t :=
  .command h fun _ hn => .completed hn <| .setCtx rfl <|
    Ctx.writes_installed (by decide) _ _ Encoder.tailsZero_reset Decoder.softLegal_reset

theorem execL2Data_runs {frame : List Word} (h : execL2Data ch arg frame s = .next t) : s.Runs .l2Data ch t := by
  refine .command h fun _ hn => ?_
  split at hn
  · unfold facchEnqueue at hn
    split at hn
    · exact .completed hn (.updEnc rfl ⟨fun _ => rfl, fun _ => ⟨rfl, rfl⟩, id⟩)
    · exact .completed hn (.refl s)
  · unfold xcchSend at hn
    split at hn
    · exact .waits hn ((State.Writes.setCtx rfl (Ctx.writes_resync _ _ _)).trans (.sendFrame _ _))
    · exact .completed hn (.refl s)

theorem execL2Establish_runs (h : execL2Establish ch arg s = .next t) : s.Runs .l2Establish ch t :=
  .command h fun _ hn => .completed hn (.setCtx rfl (Ctx.writes_open _ _ _ _ _))

theorem execL2Release_runs (h : execL2Release ch arg s = .next t) : s.Runs .l2Release ch t :=
  .command h fun _ hn => .completed hn <| .setCtx rfl <|
    (Ctx.writes_closeEnc (by decide) _).trans (Ctx.writes_closeDec _ _ _)

theorem execL2Error_runs (h : execL2Error ch arg s = .next t) : s.Runs .l2Error ch t :=
  .command h fun _ hn => .completed hn (.setCtx rfl (Ctx.writes_closeEnc (by decide) _))

theorem execRxBurst_runs {time meas : Word} {sym : List Word} (h : execRxBurst ch arg time meas sym s = .next t) :
    s.Runs .rxBurst ch t := by
  refine .command h fun hf hn => ?_
  have hsym : legalSoft (unpackSoft 148 sym) = true := by
    simpa using check_passed (p := (!legalSoft (unpackSoft 148 sym), .badArgument)) hf (by simp)
  split at hn
  · exact .completed hn (.acceptBurst s hsym)
  · exact .completed hn (.refl s)

/-- Taking a burst off the RACH queue brings no soft code in. -/
theorem Decoder.writes_dequeue {d : Decoder} {b : RxBurst} {q : List RxBurst} (hq : d.rachQ = b :: q) :
    d.Writes .rachService { d with rachQ := q } := by
  refine ⟨fun _ => rfl, fun _ => rfl, nofun, nofun, fun ⟨hI, hh, hC, hl⟩ => ⟨hI, hh, hC, fun x hx => hl x ?_⟩⟩
  rw [hq]
  exact List.mem_cons_of_mem b hx

theorem execRachService_runs (h : execRachService ch arg s = .next t) : s.Runs .rachService ch t := by
  refine .command h fun _ hn => ?_
  split at hn
  · exact .completed hn (.refl s)
  · rename_i b q hq
    exact .completed hn ((State.Writes.updDec rfl (Decoder.writes_dequeue hq)).trans (.rachDecode _ b))

theorem execIdleFill_runs (h : execIdleFill ch arg s = .next t) : s.Runs .idleFill ch t :=
  .command h fun _ hn => .completed hn (.idleSteps (by decide) s _)

theorem sendOne_writes {o' : Opcode} {i : Instr} {bits : BitVec 148} (ho : o ∈ Opcode.transmitting)
    (h : sendOne hardware o' i ch bits s = .next t) : s.Writes o ch t := by
  unfold sendOne at h
  split at h
  · exact .waits h ((State.Writes.setCtx (Opcode.isGlobal_of_transmitting ho) (Ctx.writes_resync _ _ _)).trans
      (.sendBurst ho _ _))
  · exact .completed h (.refl s)

theorem execSchSend_runs {data : Word} (h : execSchSend ch arg data s = .next t) : s.Runs .schSend ch t :=
  .command h fun _ hn => sendOne_writes (by decide) hn

theorem execFcchSend_runs (h : execFcchSend ch arg s = .next t) : s.Runs .fcchSend ch t :=
  .command h fun _ hn => sendOne_writes (by decide) hn

theorem execTchSendSlot_runs (h : execTchSendSlot ch arg s = .next t) : s.Runs .tchSendSlot ch t := by
  refine .command h fun _ hn => ?_
  split at hn
  · have hcap : (s.getCtx ch).Writes .tchSendSlot ((s.getCtx ch).capSpeech s.csr.maxSpeechLatency) :=
      .encoder ⟨fun _ => rfl, fun _ => ⟨rfl, rfl⟩, id⟩
    exact .waits hn ((State.Writes.setCtx rfl (hcap.trans (Ctx.writes_resync _ _ _))).trans (.sendSlot _))
  · exact .completed hn (.refl s)

theorem execTchSpeechPush_runs {frame : List Word} (h : execTchSpeechPush ch arg frame s = .next t) :
    s.Runs .tchSpeechPush ch t := by
  refine .command h fun _ hn => ?_
  split at hn
  · exact .completed hn (.updEnc rfl ⟨fun _ => rfl, fun _ => ⟨rfl, rfl⟩, id⟩)
  · exact .completed hn (.refl s)

theorem execResync_runs (h : execResync ch arg s = .next t) : s.Runs .resync ch t :=
  .command h fun _ hn => .completed hn (.setCtx rfl (Ctx.writes_resync _ _ _))

theorem execWaitToSend_runs (h : execWaitToSend ch arg s = .next t) : s.Runs .waitToSend ch t :=
  .command h fun _ hn => .waits hn (.refl s)

theorem execPhyRead_runs (h : execPhyRead ch arg s = .next t) : s.Runs .phyRead ch t :=
  .command h fun _ hn => .completed hn (.updDec rfl ⟨fun _ => rfl, nofun, nofun, fun _ => nofun, id⟩)

theorem execFerGood_runs (h : execFerGood ch arg s = .next t) : s.Runs .ferGood ch t :=
  .command h fun _ hn => .completed hn (.updDec rfl (Decoder.writes_fer _ _))

theorem execFerBad_runs (h : execFerBad ch arg s = .next t) : s.Runs .ferBad ch t :=
  .command h fun _ hn => .completed hn (.updDec rfl (Decoder.writes_fer _ _))

end

end

/-- Every command does one of these. -/
theorem exec_runs {i : Instr} {s t : State} (h : exec i s = .next t) : s.Runs i.opcode i.ch t := by
  cases i with
  | reset => cases h; exact .reset rfl rfl
  | csrWrite => exact execCsrWrite_runs h
  | csrRead => exact execCsrRead_runs h
  | chConfig => exact execChConfig_runs h
  | chDeconfig => exact execChDeconfig_runs h
  | l2Data => exact execL2Data_runs h
  | l2Establish => exact execL2Establish_runs h
  | l2Release => exact execL2Release_runs h
  | l2Error => exact execL2Error_runs h
  | rxBurst => exact execRxBurst_runs h
  | rachService => exact execRachService_runs h
  | idleFill => exact execIdleFill_runs h
  | schSend => exact execSchSend_runs h
  | fcchSend => exact execFcchSend_runs h
  | tchSendSlot => exact execTchSendSlot_runs h
  | tchSpeechPush => exact execTchSpeechPush_runs h
  | resync => exact execResync_runs h
  | waitToSend => exact execWaitToSend_runs h
  | phyRead => exact execPhyRead_runs h
  | ferGood => exact execFerGood_runs h
  | ferBad => exact execFerBad_runs h
  | nop | chStatus | lsb8msb | parEncode | parSyndrome | rachCheck | xcchCode | xcchDecode | schCode | convEncode
  | viterbiDecode | xcchInterleave | xcchDeinterleave | tchInterleave | tchDeinterleave | burstMap | burstUnmap
  | tchSpeechEncode | tchSpeechDecode | fnAdd | fnDelta | timeCmp | mapReverse | mapRoll => exact .pure h

end Sys2Proof.Machine
end

section
/-! PROOFS. O11, O12, O13, O15 and O17, read off what every command can do (`exec_runs`) and what every step can do
(`step_cases`). -/

namespace Sys2Proof.Machine

open Config (Params)

section
variable {s t : State} {o : Opcode} {ch : BitVec 8}

/-- No command but `RESET` writes a context more than its operation may. -/
theorem State.Runs.getCtx (h : s.Runs o ch t) (ho : o ≠ .reset) (c : BitVec 8) : (s.getCtx c).Writes o (t.getCtx c) := by
  cases h with
  | writes h => exact h.getCtx c
  | fault f h => rw [h, State.getCtx_takeFault]; exact .refl _
  | reset hr => exact absurd hr ho

/-- A property of contexts that the reset context has and the writes of every operation keep, every command keeps. -/
theorem State.Runs.everyCtx {p : Ctx → Bool} (h : s.Runs o ch t) (hs : s.everyCtx p = true) (hreset : p .reset = true)
    (hp : ∀ o c c', Ctx.Writes o c c' → p c = true → p c' = true) : t.everyCtx p = true := by
  cases h with
  | writes h => exact h.everyCtx hs hreset (hp o)
  | fault f h => rwa [h, State.everyCtx_congr (State.takeFault_ctx _ _ _ _)]
  | reset _ h => exact everyCtx_of_allReset (by rw [h, State.complete_ctx, State.resetEffect_ctx]) hreset

/-- Every command keeps the registers legal (R32 to R35, R381). -/
theorem State.Runs.csr_legal (h : s.Runs o ch t) (hs : s.csr.legal = true) : t.csr.legal = true := by
  cases h with
  | writes h => exact h.csr.legal hs
  | fault f h => rw [h, State.takeFault_csr]; exact Csr.legal_fault hs _ _ _
  | reset _ h => rw [h]; exact Csr.reset_legal

theorem State.StepsTo.csr_legal (h : s.StepsTo t) (hs : s.csr.legal = true) : t.csr.legal = true := by
  cases h with
  | command i u h hcsr _ => exact (exec_runs h).csr_legal (by rwa [hcsr])
  | fault opc ch f hcsr _ => rw [hcsr]; exact Csr.legal_fault hs opc ch f
  | keep hcsr _ => rwa [hcsr]
  | reset hcsr _ => rw [hcsr]; exact Csr.reset_legal

/-- A property of contexts that the reset context has and the writes of every operation keep, every step keeps. -/
theorem everyCtx_of_step {p : Ctx → Bool} (h : step s = .next t) (hreset : p .reset = true)
    (hp : ∀ o c c', Ctx.Writes o c c' → p c = true → p c' = true) (hs : s.everyCtx p = true) : t.everyCtx p = true :=
  (step_cases h).everyCtx hs hreset fun _ _ hu he => (exec_runs he).everyCtx hu hreset hp

end

end Sys2Proof.Machine

namespace Sys2Proof

open Machine

/-- Settles O15: the registers a step writes are the ones `CSR_WRITE` checks, `FAULT` with a fault's word, and reset values. -/
theorem stepKeepsRegistersLegal : Obligations.StepKeepsRegistersLegal := fun _ _ hs h => (step_cases h).csr_legal hs

/-- Settles O17: no operation writes a tail but with zeros, nor a soft cell but with a legal code. -/
theorem stepKeepsBuffersLegal : Obligations.StepKeepsBuffersLegal := by
  refine fun s t h => ⟨everyCtx_of_step h ?_ fun o c c' hw hc => ?_, everyCtx_of_step h ?_ fun o c c' hw hc => ?_⟩
  · exact (Ctx.tailsZero_iff _).2 Encoder.tailsZero_reset
  · exact (Ctx.tailsZero_iff _).2 (hw.enc.tails ((Ctx.tailsZero_iff _).1 hc))
  · exact (Ctx.softLegal_iff _).2 Decoder.softLegal_reset
  · exact (Ctx.softLegal_iff _).2 (hw.dec.soft ((Ctx.softLegal_iff _).1 hc))

/-- Settles O11: what a command writes of the contexts is the one its `ch` field names, and nothing if it is global. -/
theorem otherContextsUntouched : Obligations.OtherContextsUntouched := by
  intro i s t hr h
  cases exec_runs h with
  | writes hw => exact ⟨fun c hc => hw.getCtx_of_ne hc, hw.global⟩
  | fault f hf => rw [hf]; exact ⟨fun _ _ => rfl, fun _ => rfl⟩
  | reset ho => exact absurd ho hr

/-- Settles O12: each flag is written by the operations that its clause of `Encoder.Writes` or `Decoder.Writes` lists. -/
theorem flagsWrittenOnlyWhereListed : Obligations.FlagsWrittenOnlyWhereListed := by
  intro i s t c h hr hconf hdeconf
  have hlist : ∀ {l : List Opcode}, i.opcode ∉ l → i.opcode ∉ .chConfig :: .chDeconfig :: l := fun hl => by
    simp only [List.mem_cons, hconf, hdeconf, hl, or_self, not_false_iff]
  obtain ⟨hcfg, ⟨hactive, hfacch, -⟩, ⟨hacc, hnew, hsets, hclears, -⟩⟩ := (exec_runs h).getCtx hr c
  exact ⟨hcfg (hlist (by simp)), fun hl => hactive (hlist hl), fun hl => hacc (hlist hl), fun hl => hnew (hlist hl), hsets,
    hclears, fun hl => hfacch (hlist hl)⟩

/-- Settles O13: a command writes the registers and the ports that its operation may write, and a fault writes `FAULT`
alone. -/
theorem registersAndPortsWrittenOnlyWhereListed : Obligations.RegistersAndPortsWrittenOnlyWhereListed := by
  intro i s t h
  cases exec_runs h with
  | writes hw =>
    have hf := hw.csr.fault
    refine ⟨fun hl => ⟨?_, hw.csr.rachDrops⟩, fun _ => .inl hf, hw.tx, hw.up⟩
    rw [hf]
    exact hw.csr.kept fun ho => hl (by simp [ho])
  | fault f hf =>
    subst hf
    exact ⟨fun _ => ⟨rfl, fun _ => rfl⟩,
      fun _ => .inr ⟨f.code, f.code_range.1, f.code_range.2, rfl, rfl⟩, fun _ => rfl, fun _ => rfl⟩
  | reset ho hr =>
    subst hr
    exact ⟨fun hl => absurd (by simp [ho]) hl, fun hn => absurd ho hn, fun _ => rfl, fun _ => rfl⟩

end Sys2Proof
end

section
/-! PROOFS. Payload and response words read bit by bit and symbol by symbol (R114, R115), and O33: the normal burst position by
position (R47, R218, R219). -/

namespace Sys2Proof.Machine

open Config (Params)

/-! ## Words read bit by bit and symbol by symbol -/

theorem wordBit_eq_getMsbD (ws : List Word) (i : Nat) : wordBit ws i = (ws.getD (i / 32) 0).getMsbD (i % 32) := by
  rw [wordBit, BitVec.getMsbD_eq_getLsbD]
  simp [Nat.mod_lt]

/-- Bit `i` of a packed vector; past its end the words hold zeros (R114). -/
theorem wordBit_packBits {n : Nat} (v : BitVec n) (i : Nat) : wordBit (packBits v) i = v.getMsbD i := by
  rw [wordBit_eq_getMsbD, packBits, List.getD_eq_getElem?_getD, List.getElem?_map]
  rcases Nat.lt_or_ge (i / 32) (bitWords n) with hw | hw
  · rw [List.getElem?_range hw, Option.map_some, Option.getD_some, getMsbD_bitsOf]
    simp [Nat.mod_lt, Nat.div_add_mod]
  · rw [List.getElem?_eq_none (by simpa using hw)]
    have hi : n ≤ i := by unfold bitWords at hw; omega
    simp [BitVec.getMsbD_of_ge _ _ hi]

/-- Element `i` of a vector read from payload words. -/
theorem getMsbD_unpackBits_eq_wordBit {n i : Nat} (h : i < n) (ws : List Word) :
    (unpackBits n ws).getMsbD i = wordBit ws i := by
  rw [getMsbD_unpackBits, wordBit_eq_getMsbD]
  simp [h]

/-- Symbol `i` of a soft vector read from payload words. -/
theorem getD_unpackSoft {n i : Nat} (h : i < n) (ws : List Word) (d : Soft) : (unpackSoft n ws).getD i d = wordSoft ws i :=
  getD_vecOf n _ i d h

/-- Symbol `i` of a packed soft vector, whatever words follow. -/
theorem wordSoft_packSoft_append {n i : Nat} (v : Vector Soft n) (h : i < n) (ws : List Word) (d : Soft) :
    wordSoft (packSoft v ++ ws) i = v.getD i d := by
  have hw : i / 4 < (packSoft v).length := by rw [length_packSoft, softWords]; omega
  have hget : wordSoft (packSoft v ++ ws) i = wordSoft (packSoft v) i := by
    rw [wordSoft, wordSoft, List.getD_append _ _ _ _ hw]
  rw [hget, ← getD_unpackSoft h (packSoft v) d, unpackSoft_packSoft]

/-- The check of a soft payload (R115) is the check of the vector read from it. -/
theorem legalSoft_unpackSoft (n : Nat) (ws : List Word) : legalSoft (unpackSoft n ws) = softPayloadLegal n ws := by
  simp [legalSoft, softPayloadLegal, unpackSoft, vecOf, wordSoft, softLane, Function.comp_def]

/-! ## The normal burst -/

/-- The normal burst, position by position (R47, R218). -/
theorem getMsbD_normalBurst (P : Params) (row : BitVec 114) (hl hu : Bool) (tsc : BitVec 3) (i : Nat) :
    (normalBurst P row hl hu tsc).getMsbD i =
      if i < 3 then false else if i < 60 then row.getMsbD (i - 3) else if i = 60 then hl
      else if i < 87 then (P.tsc tsc).getMsbD (i - 61) else if i = 87 then hu
      else if i < 145 then row.getMsbD (57 + (i - 88)) else false := by
  have hparts : i < 3 ∨ (3 ≤ i ∧ i < 60) ∨ i = 60 ∨ (61 ≤ i ∧ i < 87) ∨ i = 87 ∨ (88 ≤ i ∧ i < 145) ∨ 145 ≤ i := by
    omega
  simp only [normalBurst, BitVec.getMsbD_append, getMsbD_slice row (show 0 + 57 ≤ 114 by decide),
    getMsbD_slice row (show 57 + 57 ≤ 114 by decide)]
  -- one case for each part of the burst
  rcases hparts with h | h | rfl | h | rfl | h | h
  all_goals simp (disch := omega) only [if_pos, if_neg]
  · simp
  · simp [show i - 3 < 57 by omega]
  · simp
  · simp
  · simp [show i - 88 < 57 by omega]
  · simp

/-- The row of a received normal burst, position by position (R219). -/
theorem getD_burstRow (sym : Vector Soft 148) {i : Nat} (h : i < 57) (d : Soft) :
    (burstRow sym).getD i d = sym.getD (3 + i) 0 ∧ (burstRow sym).getD (57 + i) d = sym.getD (88 + i) 0 := by
  rw [burstRow, getD_vecOf _ _ _ _ (by omega), getD_vecOf _ _ _ _ (by omega), if_pos h, if_neg (by omega),
    Nat.add_sub_cancel_left]
  exact ⟨rfl, rfl⟩

/-- The reserved bits of a `BURST_MAP` argument below 32 are clear (R120). -/
theorem argAbove_five {arg : BitVec 16} (h : arg.toNat < 32) : argAbove arg 5 = false := by
  have : arg >>> 5 = 0#16 := BitVec.eq_of_toNat_eq (by simp [Nat.shiftRight_eq_div_pow]; omega)
  simp [argAbove, this]

theorem burstMap_answers {s : State} (hs : s.ready) {arg : BitVec 16} (h : arg.toNat < 32) (row : List Word) :
    exec (.burstMap 0#8 arg row) s = .next (s.answered 0x36000005#32
      (packBits (normalBurst hardware (unpackBits 114 row) (argHl arg) (argHu arg) (argTsc arg)))) := by
  refine State.command_answers hs ?_ ?_
  · rw [argAbove_five h]; rfl
  · rw [length_packBits]; rfl

theorem burstUnmap_answers {s : State} (hs : s.ready) {sym : List Word} (h : softPayloadLegal 148 sym = true) :
    exec (.burstUnmap 0#8 0#16 sym) s = .next (s.answered 0x3700001E#32
      (packSoft (burstRow (unpackSoft 148 sym)) ++
        [(0#16 ++ burstHl (unpackSoft 148 sym)) ++ burstHu (unpackSoft 148 sym)])) := by
  refine State.command_answers hs ?_ ?_
  · rw [legalSoft_unpackSoft, h]; rfl
  · rw [List.length_append, length_packSoft, List.length_singleton]; rfl

end Sys2Proof.Machine

namespace Sys2Proof

open Machine

/-- Settles O33: the packed burst and the packed row, read back position by position. -/
theorem burstCommandsAnswer : Obligations.BurstCommandsAnswer := by
  intro s hs
  constructor
  · intro arg row harg
    refine ⟨_, burstMap_answers hs harg row, by rw [length_packBits]; rfl, fun i => ?_⟩
    rw [wordBit_packBits, getMsbD_normalBurst]
    split
    · rfl
    split
    · exact getMsbD_unpackBits_eq_wordBit (by omega) row
    split
    · rfl
    split
    · rfl
    split
    · rfl
    split
    · exact getMsbD_unpackBits_eq_wordBit (by omega) row
    · rfl
  · intro sym hsym
    refine ⟨_, burstUnmap_answers hs hsym, by rw [List.length_append, length_packSoft]; rfl, fun i hi => ?_, ?_⟩
    · obtain ⟨hlow, hhigh⟩ := getD_burstRow (unpackSoft 148 sym) hi 0
      rw [wordSoft_packSoft_append _ (by omega) _ 0, wordSoft_packSoft_append _ (by omega) _ 0, hlow, hhigh,
        getD_unpackSoft (by omega), getD_unpackSoft (by omega)]
      exact ⟨rfl, rfl⟩
    · rw [List.getD_append_right _ _ _ _ (by rw [length_packSoft]; decide), length_packSoft, burstHl, burstHu,
        getD_unpackSoft (by omega), getD_unpackSoft (by omega)]
      rfl

end Sys2Proof
end

section
/-! PROOFS. O23: the payload of R118 read back field by field, and R244 condition by condition. -/

namespace Sys2Proof.Machine

open Config (Params)

/-! ## The payload of `CH_CONFIG` (R118) -/

/-- Word 0 of a `CH_CONFIG` payload (R118). -/
def configWord (code : BitVec 4) (tn : BitVec 3) (c0 : Bool) (arfcn : BitVec 16) : Word :=
  (((code ++ tn) ++ BitVec.ofBool c0) ++ 0#8) ++ arfcn

/-- Word 0 of a `CH_CONFIG` payload, read back. -/
theorem configWord_fields (code : BitVec 4) (tn : BitVec 3) (c0 : Bool) (arfcn : BitVec 16) :
    legalConfigWord (configWord code tn c0 arfcn) = true ∧ configKind (configWord code tn c0 arfcn) = kindOfCode code ∧
    configTn (configWord code tn c0 arfcn) = tn ∧ configC0 (configWord code tn c0 arfcn) = c0 ∧
    configArfcn (configWord code tn c0 arfcn) = arfcn := by
  refine ⟨?_, ?_, ?_, ?_, BitVec.extractLsb'_append_eq_right⟩
  · rw [legalConfigWord, configWord, BitVec.extractLsb'_append_eq_of_le (by decide), BitVec.extractLsb'_append_eq_right]
    rfl
  · rw [configKind, configWord, BitVec.extractLsb'_append_eq_of_le (by decide),
      BitVec.extractLsb'_append_eq_of_le (by decide), BitVec.extractLsb'_append_eq_of_le (by decide),
      BitVec.extractLsb'_append_eq_left]
  · rw [configTn, configWord, BitVec.extractLsb'_append_eq_of_le (by decide),
      BitVec.extractLsb'_append_eq_of_le (by decide), BitVec.extractLsb'_append_eq_of_le (by decide),
      BitVec.extractLsb'_append_eq_right]
  · rw [configC0, configWord, BitVec.getLsbD_append, if_neg (by decide), BitVec.getLsbD_append, if_neg (by decide),
      BitVec.getLsbD_append, if_pos (by decide)]
    simp

/-- A direction whose mapping, if it has one, has from 1 to 255 frames, so that `m` fits its field (R118). -/
def FitsRecord (M : Option Mapping) : Prop := ∀ N, M = some N → 1 ≤ N.forward.length ∧ N.forward.length ≤ 255

/-- The fields of the record of a mapping, read back. -/
theorem recordOf_some_fields {M : Mapping} (h : M.forward.length ≤ 255) :
    recordM (recordOf (some M)).head = M.forward.length ∧ (recordOf (some M)).head.extractLsb' 0 7 = 0#7 ∧
    (recordOf (some M)).head.extractLsb' 16 8 = M.allowed ∧ (recordOf (some M)).head.getLsbD 7 = M.downlink ∧
    (recordOf (some M)).head.extractLsb' 8 8 = M.tag := by
  simp only [recordOf]
  refine ⟨?_, BitVec.extractLsb'_append_eq_right, ?_, ?_, ?_⟩
  · rw [recordM, BitVec.extractLsb'_append_eq_of_le (by decide), BitVec.extractLsb'_append_eq_of_le (by decide),
      BitVec.extractLsb'_append_eq_of_le (by decide), BitVec.extractLsb'_append_eq_left, BitVec.toNat_ofNat]
    exact Nat.mod_eq_of_lt (Nat.lt_succ_of_le h)
  · rw [BitVec.extractLsb'_append_eq_of_le (by decide), BitVec.extractLsb'_append_eq_of_le (by decide),
      BitVec.extractLsb'_append_eq_of_le (by decide), BitVec.extractLsb'_append_eq_right]
  · rw [BitVec.getLsbD_append, if_neg (by decide), BitVec.getLsbD_append, if_pos (by decide)]
    simp
  · rw [BitVec.extractLsb'_append_eq_of_le (by decide), BitVec.extractLsb'_append_eq_of_le (by decide),
      BitVec.extractLsb'_append_eq_right]

/-- The record of a direction is legal and stands for its mapping. -/
theorem recordOf_reads {M : Option Mapping} (h : FitsRecord M) :
    legalRecord (recordOf M) = true ∧ recordMapping (recordOf M) = M := by
  cases M with
  | none => exact ⟨rfl, rfl⟩
  | some N =>
    obtain ⟨h1, h255⟩ := h N rfl
    obtain ⟨hm, hz, hallowed, hdown, htag⟩ := recordOf_some_fields h255
    have hne : N.forward.length ≠ 0 := by omega
    rw [legalRecord, recordMapping, hm, hz, hallowed, hdown, htag, if_neg hne]
    exact ⟨by simp [hne], rfl⟩

/-! ## R244, condition by condition -/

/-- Conditions 1 to 6 of R244, in arithmetic. -/
def Mapping.Meets (tn : BitVec 3) (k : Kind) (down : Bool) (M : Mapping) : Prop :=
  2 ≤ M.forward.length ∧ M.forward.length ≤ 255 ∧ 1 ≤ M.p.toNat ∧ M.p.toNat ∣ 2715648 ∧
  M.forward.Pairwise (fun a b => a.toNat < b.toNat) ∧ (∀ w ∈ M.forward, w.toNat < M.p.toNat) ∧
  (k = .xcch ∨ k = .sacch → 4 ∣ M.forward.length) ∧ (k = .tch → 8 ∣ M.forward.length) ∧
  M.downlink = down ∧ M.allowed.getLsbD tn.toNat = true

/-- Condition 7 of R244: the mappings that a kind has. -/
def Kind.Present (k : Kind) (tx rx : Option Mapping) : Prop :=
  k = .xcch ∧ tx.isSome ∨ k = .sacch ∧ tx.isSome ∨ k = .rach ∧ tx = .none ∧ rx.isSome ∨
  k = .sch ∧ tx.isSome ∧ rx = .none ∨ k = .fcch ∧ tx.isSome ∧ rx = .none ∨ k = .tch ∧ tx.isSome ∧ rx.isSome

theorem strictlyIncreasing_iff (l : List Word) :
    strictlyIncreasing l = true ↔ l.Pairwise fun a b => a.toNat < b.toNat := by
  induction l with
  | nil => simp [strictlyIncreasing]
  | cons a l ih =>
    cases l with
    | nil => simp [strictlyIncreasing]
    | cons b l =>
      rw [strictlyIncreasing, Bool.and_eq_true, ih, decide_eq_true_eq, List.pairwise_cons (a := a)]
      refine and_congr_left fun hl => ⟨fun hab => List.forall_mem_cons.2 ⟨hab, fun x hx => ?_⟩, fun h => h b (by simp)⟩
      exact hab.trans (List.rel_of_pairwise_cons hl hx)

/-- In an increasing list all offsets are below a bound as soon as the last one is. -/
theorem getLastD_lt_iff {l : List Word} (h : strictlyIncreasing l = true) (hne : l ≠ []) (p : Nat) :
    (l.getLastD 0).toNat < p ↔ ∀ w ∈ l, w.toNat < p := by
  constructor
  · intro hlast w hw
    obtain ⟨i, hi, rfl⟩ := List.getElem_of_mem hw
    exact (getElem_le_getLastD h i hi).trans_lt hlast
  · rw [List.getLastD_eq_getLast?, List.getLast?_eq_some_getLast hne]
    exact fun hall => hall _ (List.getLast_mem hne)

theorem blockBursts_dvd_iff (k : Kind) (m : Nat) :
    m % blockBursts k = 0 ↔ (k = .xcch ∨ k = .sacch → 4 ∣ m) ∧ (k = .tch → 8 ∣ m) := by
  cases k <;> simp [blockBursts, Nat.dvd_iff_mod_eq_zero, Nat.mod_one]

theorem mappingWf_iff (k : Kind) (tn : BitVec 3) (down : Bool) (M : Mapping) :
    mappingWf hardware k tn down M = true ↔ M.Meets tn k down := by
  simp only [mappingWf, Bool.and_eq_true, decide_eq_true_eq, beq_iff_eq, blockBursts_dvd_iff, and_assoc]
  simp only [Mapping.Meets, Nat.dvd_iff_mod_eq_zero, hardware_maxM, hardware_hyperframe, Mapping.m]
  refine and_congr_right fun hm => and_congr_right fun _ => and_congr_right fun _ => and_congr_right fun _ => ?_
  rw [← strictlyIncreasing_iff]
  refine and_congr_right fun hinc => and_congr_left fun _ => getLastD_lt_iff hinc ?_ _
  exact List.ne_nil_of_length_pos (by omega)

theorem mappingPresence_iff (k : Kind) (tx rx : Option Mapping) :
    mappingPresence k tx.isSome rx.isSome = true ↔ k.Present tx rx := by
  cases k <;> simp [mappingPresence, Kind.Present]

/-- R244 as a whole: the mappings that the kind has, each of them well-formed. -/
theorem mappingsWf_iff (k : Kind) (tn : BitVec 3) (tx rx : Option Mapping) :
    mappingsWf hardware k tn tx rx = true ↔
      k.Present tx rx ∧ ∀ (down : Bool) M, (if down then tx else rx) = some M → M.Meets tn k down := by
  simp only [mappingsWf, Bool.and_eq_true, mappingPresence_iff, Option.all_eq_true, mappingWf_iff, and_assoc,
    Bool.forall_bool, if_true, Bool.false_eq_true, if_false]
  exact and_congr_right fun _ => and_comm

/-! ## `CH_CONFIG` (R272) -/

theorem kindOfCode_kindCode {k : Kind} (h : k ≠ .none) : kindOfCode (kindCode k) = some k := by
  cases k with
  | none => exact absurd rfl h
  | _ => rfl

theorem eq_of_kindOfCode_kindCode {k k' : Kind} (h : kindOfCode (kindCode k) = some k') : k' = k := by
  cases k <;> cases h <;> rfl

theorem kindOfCode_of_unassigned : ∀ code : BitVec 4, code = 0#4 ∨ 7 ≤ code.toNat → kindOfCode code = none := by decide

section
variable {s : State} {ch : BitVec 8} {code : BitVec 4} {tn : BitVec 3} {c0 : Bool} {arfcn : BitVec 16}
  {tx rx : Option Mapping}

theorem configurable_recordOf (htx : FitsRecord tx) (hrx : FitsRecord rx) :
    configurable hardware (configWord code tn c0 arfcn) (recordOf tx) (recordOf rx) =
      (kindOfCode code).filter fun k => mappingsWf hardware k tn tx rx := by
  obtain ⟨-, hkind, htn, -, -⟩ := configWord_fields code tn c0 arfcn
  rw [configurable, hkind, htn, (recordOf_reads htx).2, (recordOf_reads hrx).2]
  cases kindOfCode code <;> rfl

/-- The checks of `CH_CONFIG` on a payload that stands for two mappings: all but the last pass. -/
theorem chConfig_checks (hch : ch.toNat < 64) (htx : FitsRecord tx) (hrx : FitsRecord rx) :
    firstFault [noContext hardware ch, argUsed 0#16,
      (!(legalConfigWord (configWord code tn c0 arfcn) && legalRecord (recordOf tx) && legalRecord (recordOf rx)),
        .badArgument),
      ((s.getCtx ch).cfg.running ||
        (configurable hardware (configWord code tn c0 arfcn) (recordOf tx) (recordOf rx)).isNone, .configError)] =
    if (s.getCtx ch).cfg.running ||
      (configurable hardware (configWord code tn c0 arfcn) (recordOf tx) (recordOf rx)).isNone then some .configError
    else none := by
  have hctx : noContext hardware ch = (false, .badChannel) :=
    Prod.ext (decide_eq_false (Nat.not_le.2 hch)) rfl
  rw [hctx, (configWord_fields code tn c0 arfcn).1, (recordOf_reads htx).1, (recordOf_reads hrx).1]
  rfl

/-- `CH_CONFIG` faults `CONFIG_ERROR` on a running context, and where it selects no kind or breaks R244. -/
theorem chConfig_faults (hs : s.ready) (hch : ch.toNat < 64) (htx : FitsRecord tx) (hrx : FitsRecord rx)
    (h : (s.getCtx ch).cfg.running = true ∨ ∀ k, kindOfCode code = some k → mappingsWf hardware k tn tx rx = false) :
    exec (.chConfig ch 0#16 (configWord code tn c0 arfcn) (recordOf tx) (recordOf rx)) s
      = .next (s.afterFault 0x04#8 ch 0x05#8) := by
  refine State.command_of_fault (f := .configError) hs ?_ .chConfig ch _
  rw [chConfig_checks hch htx hrx, if_pos]
  rw [Bool.or_eq_true, configurable_recordOf htx hrx, Option.isNone_iff_eq_none]
  refine h.imp_right fun h => Option.filter_eq_none_iff.2 fun k hk => ?_
  simp [h k hk]

/-- `CH_CONFIG` installs the context of R272, its schedule reseated. -/
theorem chConfig_installs (hs : s.ready) (hch : ch.toNat < 64) (htx : FitsRecord tx) (hrx : FitsRecord rx)
    (hrun : (s.getCtx ch).cfg.running = false) {k : Kind} (hk : kindOfCode code = some k)
    (hwf : mappingsWf hardware k tn tx rx = true) :
    exec (.chConfig ch 0#16 (configWord code tn c0 arfcn) (recordOf tx) (recordOf rx)) s =
      .next ((s.setCtx ch (({ Ctx.reset with cfg :=
        { kind := k, tn := tn, c0 := c0, arfcn := arfcn, txmap := tx, rxmap := rx, running := true } } : Ctx).reseat
          hardware s.nowTime)).answered 0x04000000#32 []) := by
  have hconf : configurable hardware (configWord code tn c0 arfcn) (recordOf tx) (recordOf rx) = some k := by
    rw [configurable_recordOf htx hrx, hk, Option.filter_some, if_pos hwf]
  obtain ⟨-, -, htn, hc0, harfcn⟩ := configWord_fields code tn c0 arfcn
  have hctx : configured k (configWord code tn c0 arfcn) (recordOf tx) (recordOf rx) = { Ctx.reset with cfg :=
      { kind := k, tn := tn, c0 := c0, arfcn := arfcn, txmap := tx, rxmap := rx, running := true } } := by
    rw [configured, htn, hc0, harfcn, (recordOf_reads htx).2, (recordOf_reads hrx).2]
  refine (State.command_of_pass hs ?_ .chConfig ch _).trans ?_
  · rw [chConfig_checks hch htx hrx, hconf, hrun]
    rfl
  · rw [hconf, Option.getD_some, hctx]
    rfl

/-- A context just configured, its schedule seated on `forward[0]` where it has a downlink mapping (R250). -/
theorem Ctx.reseat_configured (cfg : ChanConfig) (t : Time) :
    ({ Ctx.reset with cfg := cfg } : Ctx).reseat hardware t =
      { cfg := cfg
        enc := match cfg.txmap with
          | none => Encoder.reset
          | some M => { Encoder.reset with
              nextWT := rollTo hardware ⟨t.fn, cfg.tn⟩ (M.forward.getD 0 0).toNat M.p.toNat
              prevWT := ⟨t.fn, cfg.tn⟩ }
        dec := Decoder.reset } := by
  rcases h : cfg.txmap with _ | M
  · exact Ctx.reseat_none hardware h t
  · rw [Ctx.reseat_some hardware (M := M) h]
    have h0 : frameMapping M (Encoder.reset.totalBursts).toNat = (M.forward.getD 0 0).toNat := by
      rw [frameMapping]
      exact congrArg (fun k => (M.forward.getD k 0).toNat) (Nat.zero_mod _)
    simp only [Ctx.reset, h0]

end

end Sys2Proof.Machine

namespace Sys2Proof

open Machine

/-- Settles O23: the payload is read back as it was written, and the checks of R244 are the conditions spelled out. -/
theorem chConfigInstallsChannel : Obligations.ChConfigInstallsChannel := by
  intro s ch tn c0 arfcn tx rx hs hch
  refine ⟨fun k hrun hmeets hpresent => ?_, fun hfits => ?_⟩
  · have hne : k ≠ .none := by rintro rfl; simp at hpresent
    have htx : FitsRecord tx := fun M hM => by
      obtain ⟨h2, h255, -⟩ := hmeets true M hM
      exact ⟨by omega, h255⟩
    have hrx : FitsRecord rx := fun M hM => by
      obtain ⟨h2, h255, -⟩ := hmeets false M hM
      exact ⟨by omega, h255⟩
    refine (chConfig_installs hs hch htx hrx hrun (kindOfCode_kindCode hne)
      ((mappingsWf_iff k tn tx rx).2 ⟨hpresent, hmeets⟩)).trans ?_
    rw [Ctx.reseat_configured]
    rfl
  · have htx : FitsRecord tx := fun M hM => hfits M (.inl hM)
    have hrx : FitsRecord rx := fun M hM => hfits M (.inr hM)
    have hbroken : ∀ k : Kind, ¬ mappingsWf hardware k tn tx rx = true →
        ∀ k', kindOfCode (kindCode k) = some k' → mappingsWf hardware k' tn tx rx = false := fun k hk k' hk' => by
      rw [eq_of_kindOfCode_kindCode hk']
      exact Bool.eq_false_iff.2 hk
    refine ⟨fun k down M hM hn => ?_, fun k hn => ?_, fun code hcode => ?_, fun hrun code => ?_⟩
    · exact chConfig_faults hs hch htx hrx (.inr (hbroken k fun h => hn (((mappingsWf_iff k tn tx rx).1 h).2 down M hM)))
    · exact chConfig_faults hs hch htx hrx (.inr (hbroken k fun h => hn ((mappingsWf_iff k tn tx rx).1 h).1))
    · refine chConfig_faults hs hch htx hrx (.inr fun k hk => ?_)
      rw [kindOfCode_of_unassigned code hcode] at hk
      cases hk
    · exact chConfig_faults hs hch htx hrx (.inl hrun)

end Sys2Proof
end

section
/-! PROOFS. O3: the command processor runs the command at the head of the command port. O6: every command answers once or
holds; what its effect does first leaves the clocks and the command port alone and only appends records. -/

namespace Sys2Proof.Machine

open Config (Params)

/-! ## The command processor's turn -/

/-- The command processor moves when no agent is named. -/
theorem step_of_sched_nil {s : State} (h : s.sched = []) : step s = processorTurn exec s := by
  rw [step, machineTurn, h]

/-- With nothing held, the command processor takes the words of the next command off the port and runs it (R88, R110). -/
theorem processorTurn_of_instr {run : Instr → State → Result} {s : State} {i : Instr} {rest : List Word}
    (hheld : s.held = none) (hdec : decode s.cmd = .instr i rest) : processorTurn run s = run i { s with cmd := rest } := by
  simp only [processorTurn, hheld, hdec]

/-! ## What happens before the answer -/

/-- `t` is `s` but for registers, contexts and the held command, with records appended to the output ports (R84). -/
structure State.Appends (s t : State) : Prop where
  nowTime : t.nowTime = s.nowTime
  nowMs   : t.nowMs = s.nowMs
  cmd     : t.cmd = s.cmd
  sched   : t.sched = s.sched
  answers : t.answers = s.answers
  tx      : s.tx <+: t.tx
  up      : s.up <+: t.up

section
variable {s t u : State} {ch : BitVec 8}

theorem State.Appends.refl (s : State) : s.Appends s :=
  ⟨rfl, rfl, rfl, rfl, rfl, ⟨[], List.append_nil _⟩, ⟨[], List.append_nil _⟩⟩

theorem State.Appends.setCsr (h : s.Appends t) (r : Csr) : s.Appends { t with csr := r } := { h with }

theorem State.Appends.setCtx (h : s.Appends t) (c : Ctx) : s.Appends (t.setCtx ch c) := { h with }

theorem State.Appends.updEnc (h : s.Appends t) (f : Encoder → Encoder) : s.Appends (t.updEnc ch f) := h.setCtx _

theorem State.Appends.updDec (h : s.Appends t) (f : Decoder → Decoder) : s.Appends (t.updDec ch f) := h.setCtx _

theorem State.Appends.emitTx (h : s.Appends t) (r : List Word) : s.Appends (t.emitTx r) :=
  { h with tx := h.tx.trans ⟨[r], rfl⟩ }

theorem State.Appends.emitUp (h : s.Appends t) (r : List Word) : s.Appends (t.emitUp r) :=
  { h with up := h.up.trans ⟨[r], rfl⟩ }

/-! ## Sending -/

theorem State.Appends.rollForward (P : Params) (h : s.Appends t) : s.Appends (t.rollForward P ch) :=
  (h.setCtx _).emitUp _

theorem State.Appends.sendBurst (P : Params) (h : s.Appends t) (b : BitVec 148) : s.Appends (t.sendBurst P ch b) :=
  (h.emitTx _).rollForward P

theorem State.Appends.sendBursts (P : Params) (h : s.Appends t) (bs : List (BitVec 148)) :
    s.Appends (t.sendBursts P ch bs) := by
  induction bs generalizing t with
  | nil => exact h
  | cons b bs ih => exact ih (h.sendBurst P b)

theorem State.Appends.idleSteps (P : Params) (h : s.Appends t) (n : Nat) : s.Appends (t.idleSteps P ch n) := by
  induction n with
  | zero => exact h
  | succ n ih =>
    rw [State.idleSteps_succ, State.idleStep]
    split
    · exact ih.sendBurst P _
    · exact ih.rollForward P

theorem State.Appends.sendFrame (P : Params) (h : s.Appends t) (f : BitVec 184) : s.Appends (t.sendFrame P ch f) :=
  (h.updEnc _).sendBursts P _

theorem State.Appends.sendSlot (P : Params) (h : s.Appends t) : s.Appends (t.sendSlot P ch) :=
  ((h.updEnc _).sendBursts P _).updEnc _

/-! ## Receiving -/

theorem State.Appends.xcchBlockEnd (P : Params) (h : s.Appends t) (time : Time) :
    s.Appends (t.xcchBlockEnd P ch time) := by
  unfold State.xcchBlockEnd
  simp only
  split
  · split <;> exact (h.updDec _).emitUp _
  · exact h.updDec _

theorem State.Appends.xcchReceive (P : Params) (h : s.Appends t) (b : RxBurst) : s.Appends (t.xcchReceive P ch b) := by
  unfold State.xcchReceive
  simp only
  split
  · exact (h.updDec _).xcchBlockEnd P _
  · exact h.updDec _

theorem State.Appends.facchBlock (P : Params) (h : s.Appends t) (time : Time) : s.Appends (t.facchBlock P ch time) := by
  unfold State.facchBlock
  simp only
  split
  · exact ((h.updDec _).emitUp _).emitUp _
  · exact (h.updDec _).emitUp _

theorem State.Appends.speechBlock (P : Params) (h : s.Appends t) (time : Time) :
    s.Appends (t.speechBlock P ch time) := by
  unfold State.speechBlock
  simp only
  split <;> exact (h.updDec _).emitUp _

theorem State.Appends.tchBlockEnd (P : Params) (h : s.Appends t) (B : Nat) (time : Time) :
    s.Appends (t.tchBlockEnd P ch B time) := by
  unfold State.tchBlockEnd
  simp only
  split
  · exact (h.updDec _).facchBlock P _
  · exact (h.updDec _).speechBlock P _

theorem State.Appends.tchReceive (P : Params) (h : s.Appends t) (b : RxBurst) : s.Appends (t.tchReceive P ch b) := by
  unfold State.tchReceive
  simp only
  split
  · exact (h.updDec _).tchBlockEnd P _ _
  · exact h.updDec _

theorem State.Appends.rachEnqueue (P : Params) (h : s.Appends t) (b : RxBurst) : s.Appends (t.rachEnqueue P ch b) := by
  unfold State.rachEnqueue
  split
  · exact h.updDec _
  · exact h.setCsr _

theorem State.Appends.acceptBurst (P : Params) (h : s.Appends t) (b : RxBurst) : s.Appends (t.acceptBurst P ch b) := by
  unfold State.acceptBurst
  cases (t.getCtx ch).cfg.kind with
  | rach => exact h.rachEnqueue P b
  | xcch | sacch => exact h.xcchReceive P b
  | tch => exact h.tchReceive P b
  | none | sch | fcch => exact h

theorem State.Appends.rachDecode (P : Params) (h : s.Appends t) (b : RxBurst) : s.Appends (t.rachDecode P ch b) := by
  unfold State.rachDecode
  split
  · exact (h.updDec _).emitUp _
  · exact h.updDec _

/-! ## One answer or a hold -/

/-- The outcomes of the command `i` from `s` that are allowed: it holds, or answers once after appending records, with
response words only where the result is `0x00` (R82, R112, R392). -/
inductive AnswersOrHolds (i : Instr) (s : State) : Result → Prop where
  | holds : AnswersOrHolds i s (.next (s.holding i))
  | answers (u : State) (result : BitVec 8) (ws : List Word) (hu : s.Appends u) (hws : result ≠ 0#8 → ws = []) :
      AnswersOrHolds i s (.next (u.answer i.opcode.code result ws))

variable {i : Instr}

theorem AnswersOrHolds.complete (hu : s.Appends u) (ws : List Word) :
    AnswersOrHolds i s (.next (u.complete i.opcode ws)) := .answers u 0#8 ws hu fun h => absurd rfl h

theorem AnswersOrHolds.takeFault (f : FaultCode) : AnswersOrHolds i s (.next (s.takeFault i.opcode.code ch f)) :=
  .answers _ f.code [] ((State.Appends.refl s).setCsr _) fun _ => rfl

theorem AnswersOrHolds.blocked : AnswersOrHolds i s (.next (s.blocked i.opcode.code)) :=
  .answers s 0xFF#8 [] (.refl s) fun _ => rfl

/-- A command is blocked, takes a fault, or has its effect (R383). -/
theorem AnswersOrHolds.command {checks : List (Bool × FaultCode)} {e : Result} (he : AnswersOrHolds i s e) :
    AnswersOrHolds i s (s.command i.opcode ch checks e) := by
  unfold State.command
  split
  · exact .blocked
  · split
    · exact .takeFault _
    · exact he

/-- A command that only answers. -/
theorem AnswersOrHolds.pure {checks : List (Bool × FaultCode)} {ws : List Word} :
    AnswersOrHolds i s (s.command i.opcode ch checks (.next (s.complete i.opcode ws))) :=
  .command (.complete (.refl s) ws)

theorem AnswersOrHolds.waitToSend {P : Params} {w : Time} {done : State} (hd : AnswersOrHolds i s (.next done)) :
    AnswersOrHolds i s (s.waitToSend P i w done) := by
  unfold State.waitToSend
  split
  · exact hd
  · exact .holds

/-- An effect that an encoder has only while it is open; closed, the command completes without it (R282, R283, R326). -/
theorem AnswersOrHolds.ifActive {e : Result} (he : AnswersOrHolds i s e) :
    AnswersOrHolds i s (if (s.getCtx ch).enc.active then e else .next (s.complete i.opcode [])) := by
  split
  · exact he
  · exact .complete (.refl s) []

/-! ## Command by command -/

variable {arg : BitVec 16}

theorem execCsrRead_answersOrHolds : AnswersOrHolds (.csrRead ch arg) s (execCsrRead ch arg s) := by
  unfold execCsrRead
  split
  · exact .complete (.refl s) _
  · split
    · exact .blocked
    · exact .takeFault _

theorem execL2Data_answersOrHolds {frame : List Word} :
    AnswersOrHolds (.l2Data ch arg frame) s (execL2Data ch arg frame s) := by
  refine .command ?_
  split
  · exact .ifActive (.complete ((State.Appends.refl s).updEnc _) [])
  · exact .ifActive (.waitToSend (.complete (((State.Appends.refl s).setCtx _).sendFrame hardware _) []))

theorem execRxBurst_answersOrHolds {time meas : Word} {sym : List Word} :
    AnswersOrHolds (.rxBurst ch arg time meas sym) s (execRxBurst ch arg time meas sym s) := by
  refine .command ?_
  split
  · exact .complete ((State.Appends.refl s).acceptBurst hardware _) []
  · exact .complete (.refl s) []

theorem execRachService_answersOrHolds : AnswersOrHolds (.rachService ch arg) s (execRachService ch arg s) := by
  refine .command ?_
  split
  · exact .complete (.refl s) _
  · exact .complete (((State.Appends.refl s).updDec _).rachDecode hardware _) _

theorem sendOne_answersOrHolds {bits : BitVec 148} :
    AnswersOrHolds i s (sendOne hardware i.opcode i ch bits s) :=
  .ifActive (.waitToSend (.complete (((State.Appends.refl s).setCtx _).sendBurst hardware _) []))

theorem execTchSendSlot_answersOrHolds : AnswersOrHolds (.tchSendSlot ch arg) s (execTchSendSlot ch arg s) :=
  .command (.ifActive (.waitToSend (.complete (((State.Appends.refl s).setCtx _).sendSlot hardware) [])))

theorem execTchSpeechPush_answersOrHolds {frame : List Word} :
    AnswersOrHolds (.tchSpeechPush ch arg frame) s (execTchSpeechPush ch arg frame s) :=
  .command (.ifActive (.complete ((State.Appends.refl s).updEnc _) []))

/-- Every command answers once or holds. -/
theorem exec_answersOrHolds (i : Instr) (s : State) : AnswersOrHolds i s (exec i s) := by
  have hs := State.Appends.refl s
  cases i with
  | reset => exact .complete (u := s.resetEffect hardware) { hs with } []
  | csrWrite => exact .command (.complete (hs.setCsr _) [])
  | csrRead => exact execCsrRead_answersOrHolds
  | l2Data => exact execL2Data_answersOrHolds
  | rxBurst => exact execRxBurst_answersOrHolds
  | rachService => exact execRachService_answersOrHolds
  | idleFill => exact .command (.complete (hs.idleSteps hardware _) [])
  | schSend ch arg data => exact .command (sendOne_answersOrHolds (i := .schSend ch arg data))
  | fcchSend ch arg => exact .command (sendOne_answersOrHolds (i := .fcchSend ch arg))
  | tchSendSlot => exact execTchSendSlot_answersOrHolds
  | tchSpeechPush => exact execTchSpeechPush_answersOrHolds
  | waitToSend => exact .command (.waitToSend (.complete hs []))
  | chConfig | chDeconfig | l2Establish | l2Release | l2Error | resync | phyRead | ferGood | ferBad =>
    exact .command (.complete (hs.setCtx _) _)
  | nop | chStatus | lsb8msb | parEncode | parSyndrome | rachCheck | xcchCode | xcchDecode | schCode | convEncode
  | viterbiDecode | xcchInterleave | xcchDeinterleave | tchInterleave | tchDeinterleave | burstMap | burstUnmap
  | tchSpeechEncode | tchSpeechDecode | fnAdd | fnDelta | timeCmp | mapReverse | mapRoll => exact .pure

end

end Sys2Proof.Machine

namespace Sys2Proof

open Machine

/-- Settles O3: with no agent named, and with the command processor named, its turn fetches and runs the command. -/
theorem stepRunsDecodedCommand : Obligations.StepRunsDecodedCommand := fun _ _ _ hheld hdec =>
  ⟨fun hs => (step_of_sched_nil hs).trans (processorTurn_of_instr hheld hdec),
    fun _ hs => (step_of_sched hs).trans (processorTurn_of_instr hheld hdec)⟩

/-- Settles O6: a hold is the state with the command held, and an answer is appended after records only. -/
theorem everyCommandAnswersOrHolds : Obligations.EveryCommandAnswersOrHolds := by
  intro i s
  have hexec := exec_answersOrHolds i s
  generalize exec i s = r at hexec ⊢
  cases hexec with
  | holds => exact ⟨_, rfl, rfl, rfl, rfl, rfl, ⟨[], by simp⟩, ⟨[], by simp⟩, .inl rfl⟩
  | answers u result ws hu hws =>
    obtain ⟨htime, hms, hcmd, hsched, hans, ⟨txs, htx⟩, ⟨ups, hup⟩⟩ := hu
    refine ⟨_, rfl, htime, hms, hcmd, hsched, ⟨txs, htx.symm⟩, ⟨ups, hup.symm⟩, .inr ⟨rfl, result, ws, ?_, hws⟩⟩
    rw [State.answer_answers, hans, statusWord]

end Sys2Proof
end

section
/-! PROOFS. O1: decoding and encoding are inverse to each other. O2: command words decode as the examples say. -/

namespace Sys2Proof

open Machine

/-! ## A payload of the right length reads back -/

theorem withWords_append {n : Nat} {l rest : List Word} {k : List Word → List Word → Decoded} (h : l.length = n) :
    withWords n (l ++ rest) k = k l rest := by
  rw [withWords, ← h, takeWords_append]

theorem MapRecord.wf_iff {r : MapRecord} : r.wf = true ↔ r.forward.length = recordM r.head := beq_iff_eq

theorem withRecord_append {r : MapRecord} {rest : List Word} {k : MapRecord → List Word → Decoded} (h : r.wf = true) :
    withRecord (r.words ++ rest) k = k r rest :=
  withWords_append (MapRecord.wf_iff.1 h)

/-- The payload reader of an operation gives a well-formed command of that operation back (R113, R118, R119). -/
theorem decodeOp_payload {i : Instr} (h : i.wf = true) (rest : List Word) :
    decodeOp i.opcode i.ch i.arg (i.payload ++ rest) = .instr i rest := by
  cases i with
  | chConfig ch arg w0 tx rx =>
    obtain ⟨htx, hrx⟩ : tx.wf = true ∧ rx.wf = true := Bool.and_eq_true_iff.1 h
    rw [Instr.payload, List.cons_append, List.append_assoc, Instr.opcode, decodeOp, withWord, withRecord_append htx,
      withRecord_append hrx]
    rfl
  | tchInterleave ch arg coded rows =>
    obtain ⟨hcoded, hrows⟩ := Bool.and_eq_true_iff.1 h
    rw [Instr.payload, List.append_assoc]
    exact (withWords_append (beq_iff_eq.1 hcoded)).trans (withWords_append (beq_iff_eq.1 hrows))
  | lsb8msb | parEncode | parSyndrome | xcchCode | xcchDecode | convEncode | viterbiDecode | xcchInterleave
  | xcchDeinterleave | tchDeinterleave | burstMap | burstUnmap | tchSpeechEncode | tchSpeechDecode | l2Data | rxBurst
  | tchSpeechPush => exact withWords_append (beq_iff_eq.1 h)
  | nop | reset | csrWrite | csrRead | chDeconfig | chStatus | rachCheck | schCode | l2Establish | l2Release | l2Error
  | rachService | idleFill | schSend | fcchSend | tchSendSlot | resync | waitToSend | phyRead | ferGood | ferBad | fnAdd
  | fnDelta | timeCmp | mapReverse | mapRoll => rfl

theorem decode_encode_append {i : Instr} (h : i.wf = true) (rest : List Word) :
    decode (encode i ++ rest) = .instr i rest := by
  obtain ⟨w, hw, hop, hch, harg⟩ := Laws.encodeHead_of_command i
  rw [hw, List.cons_append, decode, hop, hch, harg]
  exact decodeOp_payload h rest

/-! ## What the decoder reads is well-formed -/

/-- Every command that `f` reads is well-formed. -/
def YieldsWf (f : List Word → Decoded) : Prop := ∀ ⦃ws rest i⦄, f ws = .instr i rest → i.wf = true

theorem YieldsWf.instr {i : Instr} (h : i.wf = true) : YieldsWf (.instr i) := fun _ _ _ hi => by
  cases hi; exact h

theorem YieldsWf.withWord {k : Word → List Word → Decoded} (h : ∀ w, YieldsWf (k w)) : YieldsWf (withWord · k)
  | _ :: _, _, _, hi => h _ hi

theorem YieldsWf.withWords {n : Nat} {k : List Word → List Word → Decoded} (h : ∀ l, l.length = n → YieldsWf (k l)) :
    YieldsWf (withWords n · k) := by
  intro ws rest i hi
  simp only [Sys2Proof.withWords] at hi
  split at hi
  · rename_i l ws' hl
    exact h l (takeWords_eq_some hl).1 hi
  · cases hi

theorem YieldsWf.withRecord {k : MapRecord → List Word → Decoded} (h : ∀ r, r.wf = true → YieldsWf (k r)) :
    YieldsWf (withRecord · k) :=
  .withWord fun _ => .withWord fun _ => .withWords fun _ hl => h _ (MapRecord.wf_iff.2 hl)

theorem decodeOp_yieldsWf (o : Opcode) (ch : BitVec 8) (arg : BitVec 16) : YieldsWf (decodeOp o ch arg) := by
  cases o with
  | csrWrite | rachCheck | schCode | schSend | mapReverse => exact .withWord fun _ => .instr rfl
  | fnAdd | fnDelta | timeCmp | mapRoll => exact .withWord fun _ => .withWord fun _ => .instr rfl
  | chConfig =>
    exact .withWord fun _ => .withRecord fun _ htx => .withRecord fun _ hrx => .instr (Bool.and_eq_true_iff.2 ⟨htx, hrx⟩)
  | tchInterleave =>
    exact .withWords fun _ hcoded => .withWords fun _ hrows =>
      .instr (Bool.and_eq_true_iff.2 ⟨beq_iff_eq.2 hcoded, beq_iff_eq.2 hrows⟩)
  | rxBurst => exact .withWord fun _ => .withWord fun _ => .withWords fun _ hl => .instr (beq_iff_eq.2 hl)
  | lsb8msb | parEncode | parSyndrome | xcchCode | xcchDecode | convEncode | viterbiDecode | xcchInterleave
  | xcchDeinterleave | tchDeinterleave | burstMap | burstUnmap | tchSpeechEncode | tchSpeechDecode | l2Data
  | tchSpeechPush => exact .withWords fun _ hl => .instr (beq_iff_eq.2 hl)
  | nop | reset | csrRead | chDeconfig | chStatus | l2Establish | l2Release | l2Error | rachService | idleFill | fcchSend
  | tchSendSlot | resync | waitToSend | phyRead | ferGood | ferBad => exact .instr rfl

theorem wf_of_decode {ws rest : List Word} {i : Instr} (h : decode ws = .instr i rest) : i.wf = true := by
  cases ws with
  | nil => cases h
  | cons w ws =>
    rw [decode] at h
    split at h
    · exact decodeOp_yieldsWf _ _ _ h
    · split at h <;> cases h

/-- The command at the head of a stream is a well-formed one whose encoding the stream starts with. -/
theorem decode_eq_instr_iff {ws rest : List Word} {i : Instr} :
    decode ws = .instr i rest ↔ i.wf = true ∧ encode i ++ rest = ws :=
  ⟨fun h => ⟨wf_of_decode h, (decode_eq_instr h).1.symm⟩,
    fun ⟨hwf, hws⟩ => hws ▸ decode_encode_append hwf rest⟩

/-- Settles O1: each payload reader undoes the encoder on lists of the lengths R113 and R118 fix, and takes lists of just
those lengths. -/
theorem decodeEncodeAgree : Obligations.DecodeEncodeAgree :=
  ⟨fun _ rest hwf => decode_encode_append hwf rest, fun _ _ _ => decode_eq_instr_iff.1⟩

/-! ## Examples -/

/-- Settles O2: the words of each complete command are its encoding; the `RX_BURST` lacks its payload, and the last two
words start no command. -/
theorem decodingExamples : Obligations.DecodingExamples := by
  refine ⟨?csrWrite, ?l2Data, ?lsb8msb, ?l2Establish, ?mapReverse, ?chConfig, ?incomplete, ?illegalPrimitive,
    ?illegalOpcode⟩
  case incomplete | illegalPrimitive | illegalOpcode => rfl
  all_goals exact decode_eq_instr_iff.2 ⟨rfl, rfl⟩

end Sys2Proof
end

section
/-! PROOFS. O26 and O53: the octet bit reversal `LSB8MSB`, the command bit by bit and the operation twice (R150, R152). -/

namespace Sys2Proof.Machine

/-- Within a whole octet `LSB8MSB` reads a mirrored element, which lies in the same octet and so inside the vector. -/
theorem mirrorIndex_lt {n i : Nat} (h : i < n) : (if i / 8 < n / 8 then 8 * (i / 8) + (7 - i % 8) else i) < n := by
  split <;> omega

/-- `LSB8MSB` of a payload, bit by bit; past its end the answer's words hold zeros (R114, R150). -/
theorem wordBit_lsb8msb (n : Nat) (bits : List Word) (i : Nat) :
    wordBit (packBits (lsb8msb (unpackBits n bits))) i =
      if n ≤ i then false else wordBit bits (if i / 8 < n / 8 then 8 * (i / 8) + (7 - i % 8) else i) := by
  rw [wordBit_packBits]
  split
  · next hge => exact BitVec.getMsbD_of_ge _ _ hge
  · next hlt =>
    have hi : i < n := Nat.lt_of_not_le hlt
    rw [getMsbD_lsb8msb, ← apply_ite (unpackBits n bits).getMsbD, getMsbD_unpackBits_eq_wordBit (mirrorIndex_lt hi),
      decide_eq_true hi, Bool.true_and]

/-- `LSB8MSB` on `ch = 0` checks that its length is in [1, 1024] (R152). -/
theorem lsb8msb_checks (arg : BitVec 16) :
    firstFault [notGlobal 0#8, (arg.toNat == 0 || decide (1024 < arg.toNat), .badArgument)] =
      if arg.toNat = 0 ∨ 1024 < arg.toNat then some .badArgument else none := by
  rw [show notGlobal 0#8 = (false, .badChannel) from rfl, firstFault_pass, firstFault_cons, firstFault_nil]
  simp only [Bool.or_eq_true, beq_iff_eq, decide_eq_true_eq]

end Sys2Proof.Machine

namespace Sys2Proof

open Machine

/-- Settles O26: the packed answer is read back bit by bit, and the one check that can fail is the one of the length. -/
theorem lsb8msbReversesOctets : Obligations.Lsb8msbReversesOctets := by
  intro s arg bits hs
  constructor
  · intro hpos hmax
    have hpass := (lsb8msb_checks arg).trans (if_neg (by omega))
    have hlen := length_packBits (lsb8msb (unpackBits arg.toNat bits))
    exact ⟨_, State.command_answers hs hpass (by rw [hlen]; rfl), hlen, wordBit_lsb8msb arg.toNat bits⟩
  · intro hbad
    exact State.command_of_fault hs ((lsb8msb_checks arg).trans (if_pos hbad)) .lsb8msb 0#8 _

/-- Settles O53: within a whole octet the operation swaps elements `i` and `7 - i`. -/
theorem lsb8msbInvolution : Obligations.Lsb8msbInvolution := fun _ v => lsb8msb_lsb8msb v

end Sys2Proof
end

section
/-! PROOFS. O27 and O28: the block coding commands answer the parities of their codes (R162 to R171) and the coded block
(R172, R174). -/

namespace Sys2Proof.Machine

open Config (Params)

/-! ## One payload word -/

/-- A view of a short vector read from one payload word is a field of that word (R114). -/
theorem slice_unpackBits_word {n pos len : Nat} (hn : n ≤ 32) (h : pos + len ≤ n) (w : Word) :
    slice (unpackBits n [w]) pos len = w.extractLsb' (32 - (pos + len)) len := by
  refine eq_of_getMsbD fun i hi => ?_
  have hword : (pos + i) / 32 = 0 := by omega
  have hbit : (pos + i) % 32 = pos + i := by omega
  have hfield : 32 - (32 - (pos + len) + len - i) = pos + i := by omega
  rw [getMsbD_slice _ h, getMsbD_unpackBits, BitVec.getMsbD_extractLsb', hword, hbit, hfield]
  simp [hi, show pos + i < n by omega, show 32 - (pos + len) + len - i ≤ 32 by omega]

theorem slice_full {n : Nat} (v : BitVec n) : slice v 0 n = v := by
  simp [slice]

/-- A vector read from one payload word is the top field of that word (R114). -/
theorem unpackBits_word {n : Nat} (hn : n ≤ 32) (w : Word) : unpackBits n [w] = w.extractLsb' (32 - n) n := by
  have h := slice_unpackBits_word hn (Nat.zero_add n).le w
  rwa [slice_full, Nat.zero_add] at h

/-- One octet reversed (R150). -/
theorem getLsbD_lsb8msb_octet (v : BitVec 8) {i : Nat} (h : i < 8) : (lsb8msb v).getLsbD i = v.getLsbD (7 - i) := by
  have hoctet : (8 - 1 - i) / 8 = 0 := by omega
  have hmirror : 8 * 0 + (7 - (8 - 1 - i) % 8) = i := by omega
  rw [BitVec.getLsbD_eq_getMsbD, getMsbD_lsb8msb, hoctet, if_pos (by decide), hmirror, BitVec.getMsbD_eq_getLsbD]
  simp [h, show 8 - 1 - i < 8 by omega]

/-! ## `PAR_ENCODE` and `PAR_SYNDROME` -/

section

variable {s : State} {id : BitVec 16} {r k : Nat} {g : BitVec r} {status : Word}

/-- `PAR_ENCODE` with the id of a code answers the remainder and its complement (R167). -/
theorem parEncode_answers (hs : s.ready) (hc : blockCode hardware id = some ⟨r, k, g⟩)
    (hstatus : okStatus 0x20#8 (bitWords r + bitWords r) = status) (ws : List Word) :
    exec (.parEncode 0#8 id ws) s = .next (s.answered status
      (packBits (remainder g (unpackBits k ws)) ++ packBits (~~~remainder g (unpackBits k ws)))) := by
  have hwords : parityWords hardware id ws =
      packBits (remainder g (unpackBits k ws)) ++ packBits (~~~remainder g (unpackBits k ws)) := by
    rw [parityWords, hc]
  rw [← hwords]
  refine State.command_answers hs ?_ ?_
  · rw [hc]; rfl
  · rw [hwords, List.length_append, length_packBits, length_packBits]; exact hstatus

/-- `PAR_SYNDROME` with the id of a code answers the syndrome (R168). -/
theorem parSyndrome_answers (hs : s.ready) (hc : blockCode hardware id = some ⟨r, k, g⟩)
    (hstatus : okStatus 0x21#8 (bitWords r) = status) (ws : List Word) :
    exec (.parSyndrome 0#8 id ws) s
      = .next (s.answered status (packBits (syndrome g (unpackBits (k + r) ws)))) := by
  have hwords : syndromeWords hardware id ws = packBits (syndrome g (unpackBits (k + r) ws)) := by
    rw [syndromeWords, hc]
  rw [← hwords]
  refine State.command_answers hs ?_ ?_
  · rw [hc]; rfl
  · rw [hwords, length_packBits]; exact hstatus

end

/-! ## `RACH_CHECK` -/

/-- The answer word of `RACH_CHECK`, field by field (R171). -/
theorem rachCheckWord_fields (P : Params) (u : BitVec 18) (bsic : BitVec 6) :
    (rachCheckWord P u bsic).getLsbD 31 = rachTailOK u ∧ (rachCheckWord P u bsic).getLsbD 30 = rachParityOK P u bsic ∧
      (rachCheckWord P u bsic).extractLsb' 8 22 = 0#22 ∧
      ∀ i, i < 8 → (rachCheckWord P u bsic).getLsbD i = (rachRA u).getLsbD i := by
  refine ⟨?tailOK, ?parityOK, ?zeros, ?ra⟩
  case tailOK | parityOK =>
    simp only [rachCheckWord, BitVec.getLsbD_append]
    simp
  case zeros =>
    rw [rachCheckWord, BitVec.extractLsb'_append_eq_of_le (by decide),
      BitVec.extractLsb'_append_eq_of_add_le (by decide)]
    rfl
  case ra =>
    intro i hi
    rw [rachCheckWord, BitVec.getLsbD_append, if_pos hi]

/-- The reserved bits of an argument below `2 ^ n` are clear (R120). -/
theorem argAbove_of_lt {arg : BitVec 16} {n : Nat} (h : arg.toNat < 2 ^ n) : argAbove arg n = false := by
  have hshift : arg >>> n = 0#16 :=
    BitVec.eq_of_toNat_eq (by simp [Nat.shiftRight_eq_div_pow, Nat.div_eq_of_lt h])
  simp [argAbove, hshift]

theorem rachCheck_answers {s : State} (hs : s.ready) {arg : BitVec 16} (h : arg.toNat < 64) (u : Word) :
    exec (.rachCheck 0#8 arg u) s
      = .next (s.answered 0x22000001#32 [rachCheckWord hardware (unpackBits 18 [u]) (argBsic arg)]) := by
  refine State.command_answers hs ?_ (by rw [List.length_singleton]; rfl)
  rw [argAbove_of_lt (n := 6) h]; rfl

theorem rachTailOK_word (u : Word) : rachTailOK (unpackBits 18 [u]) = decide (u.extractLsb' 14 4 = 0#4) := by
  rw [rachTailOK, slice_unpackBits_word (by decide) (by decide)]
  rfl

theorem rachParityOK_word (P : Params) (u : Word) (bsic : BitVec 6) :
    rachParityOK P (unpackBits 18 [u]) bsic
      = decide (~~~u.extractLsb' 18 6 ^^^ remainder P.gRach (u.extractLsb' 24 8) = bsic) := by
  rw [rachParityOK, slice_unpackBits_word (by decide) (by decide), slice_unpackBits_word (by decide) (by decide)]
  rfl

theorem getLsbD_rachRA_word (u : Word) {i : Nat} (h : i < 8) :
    (rachRA (unpackBits 18 [u])).getLsbD i = (u.extractLsb' 24 8).getLsbD (7 - i) := by
  rw [rachRA, slice_unpackBits_word (by decide) (by decide), getLsbD_lsb8msb_octet _ h]

/-! ## `XCCH_CODE` and `SCH_CODE` -/

theorem xcchCode_answers {s : State} (hs : s.ready) (frame : List Word) :
    exec (.xcchCode 0#8 0#16 frame) s
      = .next (s.answered 0x2300000F#32 (packBits (convEncode (xcchFill hardware 0 (unpackBits 184 frame))))) :=
  State.command_answers (ch := 0#8) hs pureChecks_pass (by rw [length_packBits]; rfl)

theorem schCode_answers {s : State} (hs : s.ready) (data : Word) :
    exec (.schCode 0#8 0#16 data) s
      = .next (s.answered 0x25000003#32 (packBits (convEncode (schUncoded hardware (unpackBits 25 [data]))))) :=
  State.command_answers (ch := 0#8) hs pureChecks_pass (by rw [length_packBits]; rfl)

/-- A data bit of an uncoded control block is the mirrored bit of the frame's octet (R172). -/
theorem getMsbD_xcchFill_data (P : Params) (eU : BitVec 228) (frame : List Word) {i : Nat} (h : i < 184) :
    (xcchFill P eU (unpackBits 184 frame)).getMsbD i = wordBit frame (8 * (i / 8) + (7 - i % 8)) := by
  have hdata := getMsbD_slice (xcchFill P eU (unpackBits 184 frame)) (show 0 + 184 ≤ 228 by decide) i
  rw [decide_eq_true h, Bool.true_and, Nat.zero_add, slice_xcchFill_data] at hdata
  rw [← hdata, getMsbD_lsb8msb, if_pos (by omega), getMsbD_unpackBits_eq_wordBit (by omega), decide_eq_true h,
    Bool.true_and]

end Sys2Proof.Machine

namespace Sys2Proof

open Machine

/-- Settles O27: each code id selects its code of R162, and the payload word of `RACH_CHECK` holds the views of R170 as
fields. -/
theorem parityCommandsAnswer : Obligations.ParityCommandsAnswer := by
  intro s ws hs
  refine ⟨⟨?_, ?_, ?_, ?_⟩, ⟨?_, ?_, ?_, ?_⟩, fun arg u harg => ?rachCheck⟩
  iterate 4 exact parEncode_answers hs (by rfl) (by rfl) ws
  iterate 4 exact parSyndrome_answers hs (by rfl) (by rfl) ws
  case rachCheck =>
    obtain ⟨htail, hparity, hzeros, hra⟩ := rachCheckWord_fields hardware (unpackBits 18 [u]) (argBsic arg)
    exact ⟨_, rachCheck_answers hs harg u, htail.trans (rachTailOK_word u),
      hparity.trans (rachParityOK_word hardware u _), hzeros,
      fun i hi => (hra i hi).trans (getLsbD_rachRA_word u hi)⟩

/-- Settles O28: the views of the uncoded control block hold data, parity and tail, and the payload word of `SCH_CODE` holds
the data bits of its block as a field. -/
theorem blockCodingCommandsAnswer : Obligations.BlockCodingCommandsAnswer := by
  intro s hs
  constructor
  · intro frame
    refine ⟨_, xcchCode_answers hs frame, fun i hi => getMsbD_xcchFill_data hardware 0 frame hi, ?parity, ?tail⟩
    case parity => rw [slice_xcchFill_parity, slice_xcchFill_data, hardware_gFire]
    case tail => rw [slice_xcchFill_tail]; rfl
  · intro data
    rw [schCode_answers hs, unpackBits_word (by decide)]
    rfl

end Sys2Proof
end

section
/-! PROOFS. O29, O30 and O55: the convolutional code bit by bit and its linearity (R190, R193), and the decoding commands, whose
checks read the payload as the statement does (R173, R198). -/

namespace Sys2Proof.Machine

/-! ## The coded bits (R190) -/

theorem getMsbD_convEncode_two_mul {n k : Nat} (u : BitVec n) (hk : k < n) :
    (convEncode u).getMsbD (2 * k) = ((tap u k 0 ^^ tap u k 3) ^^ tap u k 4) := by
  have hlt : 2 * k < 2 * n := by omega
  have hpair : 2 * k / 2 = k := by omega
  simp [convEncode, getMsbD_bitsOf, hlt, hpair]

theorem getMsbD_convEncode_two_mul_add_one {n k : Nat} (u : BitVec n) (hk : k < n) :
    (convEncode u).getMsbD (2 * k + 1) = (((tap u k 0 ^^ tap u k 1) ^^ tap u k 3) ^^ tap u k 4) := by
  have hlt : 2 * k + 1 < 2 * n := by omega
  have hpair : (2 * k + 1) / 2 = k := by omega
  have hodd : (2 * k + 1) % 2 = 1 := by omega
  simp [convEncode, getMsbD_bitsOf, hlt, hpair, hodd, Bool.xor_comm, Bool.xor_left_comm]

/-- Two coded vectors are equal when they agree on the two coded bits of every input bit. -/
theorem eq_of_coded_pairs {n : Nat} {c c' : BitVec (2 * n)}
    (h : ∀ k, k < n → c.getMsbD (2 * k) = c'.getMsbD (2 * k) ∧ c.getMsbD (2 * k + 1) = c'.getMsbD (2 * k + 1)) :
    c = c' := by
  refine eq_of_getMsbD fun i hi => ?_
  obtain ⟨k, rfl | rfl⟩ := Nat.even_or_odd' i
  · exact (h k (by omega)).1
  · exact (h k (by omega)).2

theorem tap_xor {n : Nat} (a b : BitVec n) (k d : Nat) : tap (a ^^^ b) k d = (tap a k d ^^ tap b k d) := by
  simp [tap, Bool.and_xor_distrib_left]

theorem tap_zero (n k d : Nat) : tap 0#n k d = false := by simp [tap]

/-- An input bit of a payload, 0 before the start (R114, R190). -/
theorem tap_unpackBits {n k d : Nat} (hk : k < n) (ws : List Word) :
    tap (unpackBits n ws) k d = if d ≤ k then wordBit ws (k - d) else false := by
  rw [tap, getMsbD_unpackBits_eq_wordBit (by omega)]
  split <;> simp [*]

theorem convEncode_xor {n : Nat} (a b : BitVec n) : convEncode (a ^^^ b) = convEncode a ^^^ convEncode b := by
  refine eq_of_coded_pairs fun k hk => ⟨?_, ?_⟩
  · simp only [BitVec.getMsbD_xor, getMsbD_convEncode_two_mul _ hk, tap_xor, Bool.xor_assoc, Bool.xor_left_comm]
  · simp only [BitVec.getMsbD_xor, getMsbD_convEncode_two_mul_add_one _ hk, tap_xor, Bool.xor_assoc, Bool.xor_left_comm]

theorem convEncode_zero (n : Nat) : convEncode 0#n = 0#(2 * n) := by
  refine eq_of_coded_pairs fun k hk => ⟨?_, ?_⟩
  · simp [getMsbD_convEncode_two_mul _ hk, tap_zero]
  · simp [getMsbD_convEncode_two_mul_add_one _ hk, tap_zero]

/-! ## The commands -/

/-- A soft vector read from payload words, symbol by symbol (R115). -/
theorem unpackSoft_eq_vecOf (n : Nat) (ws : List Word) : unpackSoft n ws = vecOf n (wordSoft ws) := rfl

theorem codeLengthBad_of_legal {arg : BitVec 16} (hmin : 5 ≤ arg.toNat) (hmax : arg.toNat ≤ 512) :
    codeLengthBad arg = (false, .badArgument) := by
  have hlow : ¬ arg.toNat < 5 := by omega
  have hhigh : ¬ 512 < arg.toNat := by omega
  simp [codeLengthBad, hlow, hhigh]

section

variable {s : State} (hs : s.ready) {arg : BitVec 16} (hmin : 5 ≤ arg.toNat) (hmax : arg.toNat ≤ 512)

include hs hmin hmax

theorem convEncode_answers (bits : List Word) :
    exec (.convEncode 0#8 arg bits) s = .next (s.answered (okStatus 0x30#8 (bitWords (2 * arg.toNat)))
      (packBits (convEncode (unpackBits arg.toNat bits)))) := by
  refine State.command_answers hs ?_ ?_
  · rw [codeLengthBad_of_legal hmin hmax]; rfl
  · rw [length_packBits]; rfl

theorem viterbiDecode_answers {soft : List Word} (hsoft : softPayloadLegal (2 * arg.toNat) soft = true) :
    exec (.viterbiDecode 0#8 arg soft) s = .next (s.answered (okStatus 0x31#8 (bitWords arg.toNat))
      (packBits (viterbi arg.toNat (unpackSoft (2 * arg.toNat) soft)))) := by
  refine State.command_answers hs ?_ ?_
  · rw [codeLengthBad_of_legal hmin hmax, legalSoft_unpackSoft, hsoft]; rfl
  · rw [length_packBits]; rfl

end

/-- What `XCCH_DECODE` answers, in terms of the block as it was decoded (R164, R173). -/
theorem xcchDecodeWords_eq (P : Config.Params) (c : Vector Soft 456) :
    xcchDecodeWords P c =
      (if syndrome P.gFire (slice (P.vd 228 c) 0 184 ++ ~~~slice (P.vd 228 c) 184 40) = 0#40 then 1#32 else 0#32)
        :: packBits (lsb8msb (slice (P.vd 228 c) 0 184)) := by
  have hblock : slice (invertParity (P.vd 228 c)) 0 224 = slice (P.vd 228 c) 0 184 ++ ~~~slice (P.vd 228 c) 184 40 := by
    rw [slice_add (a := 184) (b := 40) _ (by decide), slice_invertParity_data, slice_invertParity_parity]
  simp only [xcchDecodeWords, xcchValid]
  rw [hblock, slice_invertParity_data]
  split
  · next hzero => rw [hzero]; rfl
  · next hne => rw [beq_eq_false_iff_ne.2 hne]; rfl

theorem xcchDecode_answers {s : State} (hs : s.ready) {soft : List Word} (hsoft : softPayloadLegal 456 soft = true) :
    exec (.xcchDecode 0#8 0#16 soft) s
      = .next (s.answered 0x24000007#32 (xcchDecodeWords hardware (unpackSoft 456 soft))) := by
  refine State.command_answers hs ?_ ?_
  · rw [legalSoft_unpackSoft, hsoft]; rfl
  · rw [xcchDecodeWords, List.length_cons, length_packBits]; rfl

end Sys2Proof.Machine

namespace Sys2Proof

open Machine

/-- Settles O29: the packed answer is read back as the coded vector, whose taps read the payload. -/
theorem convEncodeAnswers : Obligations.ConvEncodeAnswers := by
  intro s arg bits hs hmin hmax u
  have htap : ∀ {k : Nat}, k < arg.toNat → ∀ d, tap (unpackBits arg.toNat bits) k d = u k d :=
    fun hk _ => tap_unpackBits hk bits
  refine ⟨_, convEncode_answers hs hmin hmax bits, length_packBits _, fun k hk => ⟨?even, ?odd⟩, fun i hi => ?padding⟩
  case even => simp only [wordBit_packBits, getMsbD_convEncode_two_mul _ hk, htap hk]
  case odd => simp only [wordBit_packBits, getMsbD_convEncode_two_mul_add_one _ hk, htap hk]
  case padding => rw [wordBit_packBits, BitVec.getMsbD_of_ge _ _ hi]

/-- Settles O30: the checks pass on a legal payload, and the inverted parity and the data of the decoded block are its views. -/
theorem decodingCommandsAnswer : Obligations.DecodingCommandsAnswer := by
  intro s hs
  constructor
  · intro arg soft hmin hmax hsoft
    rw [viterbiDecode_answers hs hmin hmax hsoft, unpackSoft_eq_vecOf, bitWords]
  · intro soft hsoft u
    rw [xcchDecode_answers hs hsoft, xcchDecodeWords_eq, hardware_gFire, hardware_vd, unpackSoft_eq_vecOf]

/-- Settles O55: each coded bit is a sum of input bits. -/
theorem convEncodeIsLinear : Obligations.ConvEncodeIsLinear := fun n => ⟨convEncode_xor, convEncode_zero n⟩

end Sys2Proof
end

section
/-! PROOFS. O56: the Viterbi search finds the maximum-likelihood input (R196). Paths are numbers, the first input bit most
significant. Two paths that meet in a state go on alike, so the order of R196 between them stays: the survivor of a state is at
least as good as every path that ends there. -/

namespace Sys2Proof.Machine

/-! ## The order of R196 -/

/-- `x` comes no later than `y` in the order of R196: larger metric first, then smaller path. -/
def Survivor.AtLeast (x y : Survivor) : Prop := y.metric < x.metric ∨ (y.metric = x.metric ∧ x.path ≤ y.path)

/-- There is a survivor, and it is at least as good as `x`. -/
def HoldsAtLeast (o : Option Survivor) (x : Survivor) : Prop := ∃ y, o = some y ∧ y.AtLeast x

theorem Survivor.AtLeast.refl (x : Survivor) : x.AtLeast x := .inr ⟨rfl, le_rfl⟩

theorem Survivor.AtLeast.trans {x y z : Survivor} (hxy : x.AtLeast y) (hyz : y.AtLeast z) : x.AtLeast z := by
  unfold Survivor.AtLeast at *
  omega

theorem better_some_some (x y : Survivor) :
    (x.AtLeast y ∧ better (some x) (some y) = some x) ∨ (y.AtLeast x ∧ better (some x) (some y) = some y) := by
  by_cases h : x.AtLeast y
  · exact .inl ⟨h, if_pos h⟩
  · refine .inr ⟨?_, if_neg h⟩
    unfold Survivor.AtLeast at *
    omega

theorem HoldsAtLeast.better_left {a : Option Survivor} {x : Survivor} (h : HoldsAtLeast a x) (b : Option Survivor) :
    HoldsAtLeast (better a b) x := by
  obtain ⟨y, rfl, hy⟩ := h
  cases b with
  | none => exact ⟨y, rfl, hy⟩
  | some z =>
    rcases better_some_some y z with ⟨-, e⟩ | ⟨hz, e⟩
    · exact ⟨y, e, hy⟩
    · exact ⟨z, e, hz.trans hy⟩

theorem HoldsAtLeast.better_right {b : Option Survivor} {x : Survivor} (h : HoldsAtLeast b x) (a : Option Survivor) :
    HoldsAtLeast (better a b) x := by
  obtain ⟨y, rfl, hy⟩ := h
  cases a with
  | none => exact ⟨y, rfl, hy⟩
  | some z =>
    rcases better_some_some z y with ⟨hz, e⟩ | ⟨-, e⟩
    · exact ⟨z, e, hz.trans hy⟩
    · exact ⟨y, e, hy⟩

/-- The best of a list is at least as good as each of its survivors. -/
theorem holdsAtLeast_foldl_better {l : List (Option Survivor)} {a : Option Survivor} {x : Survivor}
    (h : HoldsAtLeast a x ∨ ∃ o ∈ l, HoldsAtLeast o x) : HoldsAtLeast (l.foldl better a) x := by
  induction l generalizing a with
  | nil => simpa using h
  | cons o l ih =>
    refine ih ?_
    rcases h with ha | ⟨o', ho', hx⟩
    · exact .inl (ha.better_left o)
    · rcases List.mem_cons.1 ho' with rfl | hl
      · exact .inl (hx.better_right a)
      · exact .inr ⟨o', hl, hx⟩

/-- The best of a list is one of its survivors. -/
theorem foldl_better_mem (l : List (Option Survivor)) (a : Option Survivor) : l.foldl better a ∈ a :: l := by
  induction l generalizing a with
  | nil => exact List.mem_singleton_self a
  | cons o l ih =>
    rw [List.foldl_cons]
    rcases List.mem_cons.1 (ih (better a o)) with hbest | hl
    · rw [hbest]
      rcases better_eq a o with e | e <;> simp [e]
    · exact List.mem_cons_of_mem _ (List.mem_cons_of_mem _ hl)

/-! ## Paths -/

variable {n : Nat} (q : Vector Soft (2 * n))

/-- What input `b` out of encoder state `st` adds to the metric at pair `k` (R195). -/
def branchMetric (k st : Nat) (b : Bool) : Int :=
  symbolMetric (q.getD (2 * k) 0) (codedBit0 st b) + symbolMetric (q.getD (2 * k + 1) 0) (codedBit1 st b)

/-- The metric of a path of `k` inputs on the first `k` pairs of symbols (R195). -/
def pathMetric : Nat → Nat → Int
  | 0, _ => 0
  | k + 1, p => pathMetric k (p / 2) + branchMetric q k (p / 2 % 16) (p.testBit 0)

/-- A path of `k` inputs as a survivor. -/
def pathSurvivor (k p : Nat) : Survivor := ⟨pathMetric q k p, p⟩

theorem pathMetric_succ (k p : Nat) (b : Bool) :
    pathMetric q (k + 1) (2 * p + b.toNat) = pathMetric q k p + branchMetric q k (p % 16) b := by
  have hhalf : (2 * p + b.toNat) / 2 = p := by have := b.toNat_lt; omega
  have hbit : (2 * p + b.toNat).testBit 0 = b := by cases b <;> simp [Nat.testBit_zero]
  rw [pathMetric, hhalf, hbit]

/-- A path extended out of the state it ends in is the longer path. -/
theorem extend_pathSurvivor (k p : Nat) (b : Bool) :
    extend (q.getD (2 * k) 0) (q.getD (2 * k + 1) 0) (p % 16) b (some (pathSurvivor q k p)) =
      some (pathSurvivor q (k + 1) (2 * p + b.toNat)) := by
  rw [extend_some, pathSurvivor, pathSurvivor, pathMetric_succ]
  rfl

/-- Extending by one input out of one state keeps the order of R196. -/
theorem HoldsAtLeast.extend {o : Option Survivor} {k p : Nat} (h : HoldsAtLeast o (pathSurvivor q k p)) (b : Bool) :
    HoldsAtLeast (extend (q.getD (2 * k) 0) (q.getD (2 * k + 1) 0) (p % 16) b o)
      (pathSurvivor q (k + 1) (2 * p + b.toNat)) := by
  obtain ⟨x, rfl, hx⟩ := h
  refine ⟨_, extend_some .., ?_⟩
  simp only [Survivor.AtLeast, pathSurvivor, pathMetric_succ, branchMetric] at hx ⊢
  omega

/-! ## The score of an input is the metric of its path -/

theorem sum_range_symbolMetric (u : BitVec n) {k : Nat} (hk : k ≤ n) :
    ∑ i ∈ Finset.range (2 * k), symbolMetric (q.getD i 0) ((convEncode u).getMsbD i) =
      pathMetric q k (inputPath u k) := by
  induction k with
  | zero => simp [pathMetric]
  | succ k ih =>
    rw [Nat.mul_succ, Finset.sum_range_succ, Finset.sum_range_succ, ih (by omega), inputPath_succ u hk, pathMetric_succ,
      getMsbD_convEncode_even u hk, getMsbD_convEncode_odd u hk, add_assoc]
    rfl

theorem symbolMetric_eq_mul (s : Soft) (c : Bool) : symbolMetric s c = ((s.toNat : Int) - 127) * (if c then 1 else -1) := by
  cases c <;> simp [symbolMetric]

/-- The correlation of R195. -/
theorem sum_correlation_eq_pathMetric (u : BitVec n) :
    ∑ i : Fin (2 * n), ((q[i].toNat : Int) - 127) * (if (convEncode u).getMsbD i then 1 else -1) =
      pathMetric q n u.toNat := by
  rw [← inputPath_self u, ← sum_range_symbolMetric q u le_rfl, ← Fin.sum_univ_eq_sum_range]
  refine Finset.sum_congr rfl fun i _ => ?_
  simp [symbolMetric_eq_mul, Vector.getD]

/-! ## The search -/

/-- What the survivors are after `k` pairs of symbols: each is a path that ends in its state, and the one of a state is at
least as good as every path that ends there. -/
structure BestSurvivors (k : Nat) (sv : List (Option Survivor)) : Prop where
  length : sv.length = 16
  isPath : ∀ st < 16, ∀ x, sv.getD st none = some x → ∃ p < 2 ^ k, p % 16 = st ∧ x = pathSurvivor q k p
  best   : ∀ p < 2 ^ k, HoldsAtLeast (sv.getD (p % 16) none) (pathSurvivor q k p)

theorem bestSurvivors_start : BestSurvivors q 0 searchStart := by
  refine ⟨rfl, fun st hst x hx => ?_, fun p hp => ?_⟩
  · cases st with
    | zero => exact ⟨0, by decide, rfl, (Option.some.inj hx).symm⟩
    | succ st =>
      have hnone : searchStart.getD (st + 1) none = none := by
        rw [searchStart, List.getD_cons_succ, List.getD_replicate _ (Nat.succ_lt_succ_iff.1 hst)]
      cases hnone.symm.trans hx
  · obtain rfl : p = 0 := by omega
    exact ⟨_, rfl, .refl _⟩

section
variable {q} {k : Nat} {sv : List (Option Survivor)} (h : BestSurvivors q k sv)
include h

/-- A survivor extended to state `ns` is a path that ends there. -/
theorem BestSurvivors.isPath_extend {ns st : Nat} (hst : st < 16) (hns : ns < 16) (hs : st = ns / 2 ∨ st = ns / 2 + 8)
    {y : Survivor}
    (hy : extend (q.getD (2 * k) 0) (q.getD (2 * k + 1) 0) st (ns % 2 == 1) (sv.getD st none) = some y) :
    ∃ p < 2 ^ (k + 1), p % 16 = ns ∧ y = pathSurvivor q (k + 1) p := by
  obtain ⟨x, hx, -⟩ := extend_eq_some hy
  obtain ⟨p, hp, rfl, rfl⟩ := h.isPath st hst x hx
  rw [hx, extend_pathSurvivor] at hy
  have hb : (ns % 2 == 1).toNat = ns % 2 := by rcases Nat.mod_two_eq_zero_or_one ns with e | e <;> simp [e]
  refine ⟨_, ?_, ?_, (Option.some.inj hy).symm⟩ <;> rw [hb]
  · rw [pow_succ]; omega
  · omega

theorem BestSurvivors.step :
    BestSurvivors q (k + 1) (searchStep (q.getD (2 * k) 0) (q.getD (2 * k + 1) 0) sv) := by
  refine ⟨by simp [searchStep], fun ns hns y hy => ?_, fun p hp => ?_⟩
  · rw [getD_searchStep _ _ _ hns] at hy
    rcases better_eq _ _ with e | e <;> rw [e] at hy
    · exact h.isPath_extend (by omega) hns (.inl rfl) hy
    · exact h.isPath_extend (by omega) hns (.inr rfl) hy
  · have hbit : (p % 16 % 2 == 1).toNat = p % 2 := by
      rcases Nat.mod_two_eq_zero_or_one p with e | e <;> simp [Nat.mod_mod_of_dvd p (show 2 ∣ 16 by decide), e]
    have hext := (h.best (p / 2) (by rw [pow_succ] at hp; omega)).extend q (p % 16 % 2 == 1)
    rw [hbit, Nat.div_add_mod] at hext
    rw [getD_searchStep _ _ _ (Nat.mod_lt _ (by decide))]
    rcases (by omega : p / 2 % 16 = p % 16 / 2 ∨ p / 2 % 16 = p % 16 / 2 + 8) with e | e <;> rw [e] at hext
    · exact hext.better_left _
    · exact hext.better_right _

end

/-- The symbols left after `k` pairs begin with pair `k`. -/
theorem drop_toList_two_mul {k : Nat} (hk : k < n) :
    q.toList.drop (2 * k) = q.getD (2 * k) 0 :: q.getD (2 * k + 1) 0 :: q.toList.drop (2 * (k + 1)) := by
  have hlen : q.toList.length = 2 * n := by simp
  rw [List.drop_eq_getElem_cons (by omega), List.drop_eq_getElem_cons (by omega)]
  simp [Vector.getD, Nat.mul_add, show 2 * k < 2 * n by omega, show 2 * k + 1 < 2 * n by omega]

theorem bestSurvivors_search {j k : Nat} (hjk : k + j = n) {sv : List (Option Survivor)} (h : BestSurvivors q k sv) :
    BestSurvivors q n (search (q.toList.drop (2 * k)) sv) := by
  induction j generalizing k sv with
  | zero =>
    obtain rfl : k = n := hjk
    rw [List.drop_eq_nil_of_le (by simp)]
    exact h
  | succ j ih =>
    rw [drop_toList_two_mul q (by omega), search]
    exact ih (by omega) h.step

/-! ## The answer -/

/-- The decoded bits are the path that is at least as good as every other (R196). -/
theorem viterbi_atLeast {p : Nat} (hp : p < 2 ^ n) :
    (pathSurvivor q n (viterbi n q).toNat).AtLeast (pathSurvivor q n p) := by
  have hsearch := bestSurvivors_search q (Nat.zero_add n) (bestSurvivors_start q)
  rw [Nat.mul_zero, List.drop_zero] at hsearch
  obtain ⟨hlen, hpath, hbest⟩ := hsearch
  have hmem : ∀ st < 16, (search q.toList searchStart).getD st none ∈ search q.toList searchStart := fun st hst => by
    rw [List.getD_eq_getElem _ _ (hlen ▸ hst)]
    exact List.getElem_mem _
  obtain ⟨x, hx, hxp⟩ : HoldsAtLeast ((search q.toList searchStart).foldl better none) (pathSurvivor q n p) :=
    holdsAtLeast_foldl_better (.inr ⟨_, hmem _ (Nat.mod_lt p (by decide)), hbest p hp⟩)
  have hx_mem : some x ∈ search q.toList searchStart := by
    have := foldl_better_mem (search q.toList searchStart) none
    rw [hx] at this
    simpa using this
  obtain ⟨st, hst, hget⟩ := List.getElem_of_mem hx_mem
  obtain ⟨p', hp', -, rfl⟩ := hpath st (hlen ▸ hst) x (by rw [List.getD_eq_getElem _ _ hst, hget])
  have hdecoded : (viterbi n q).toNat = p' := by
    rw [viterbi, hx]
    exact Nat.mod_eq_of_lt hp'
  rwa [hdecoded]

end Sys2Proof.Machine

namespace Sys2Proof

open Machine

/-- Settles O56: the score of an input is the metric of its path, and the search answers the best path. -/
theorem viterbiIsMaximumLikelihood : Obligations.ViterbiIsMaximumLikelihood := by
  intro n q v score
  have hscore : ∀ u, score u = pathMetric q n u.toNat := sum_correlation_eq_pathMetric q
  rw [hscore, hscore]
  exact viterbi_atLeast q v.isLt

end Sys2Proof
end

section
/-! PROOFS. The cells of the interleavers (R210, R211, R214, R215): which cell a coded bit names, that no two name one, and
what a cell holds after one write per coded bit. -/

namespace Sys2Proof.Machine

/-! ## The cell of a coded bit -/

/-- The row and the place that coded bit `k` names among `R` rows at offset `off` (R210, R214). -/
def cellOf (R off k : Nat) : Nat × Nat := ((k + off) % R, inRow k)

theorem inRow_lt (k : Nat) : inRow k < 114 := by unfold inRow; omega

/-- The pair of places that a coded bit goes to. -/
theorem inRow_div_two (k : Nat) : inRow k / 2 = 49 * k % 57 := by unfold inRow; omega

/-- Which place of its pair a coded bit goes to. -/
theorem inRow_mod_two (k : Nat) : inRow k % 2 = k % 8 / 4 := by unfold inRow; omega

theorem fst_cellOf_lt {R : Nat} [NeZero R] (off k : Nat) : (cellOf R off k).1 < R := Nat.mod_lt _ (NeZero.pos R)

/-- The row and the place of a coded bit give `k mod 8`. -/
theorem mod_eight_eq_of_cell {R off k k' : Nat} (hR : R = 4 ∨ R = 8) (hrow : (k + off) % R = (k' + off) % R)
    (hplace : inRow k = inRow k') : k % 8 = k' % 8 := by
  have hhalf : k % 8 / 4 = k' % 8 / 4 := by rw [← inRow_mod_two, hplace, inRow_mod_two]
  rcases hR with rfl | rfl <;> omega

/-- The place of a coded bit gives `k mod 57`, as 49 is invertible modulo 57. -/
theorem mod_57_eq_of_inRow {k k' : Nat} (hplace : inRow k = inRow k') : k % 57 = k' % 57 := by
  have hpair : 49 * k % 57 = 49 * k' % 57 := by rw [← inRow_div_two, hplace, inRow_div_two]
  omega

/-- No two coded bits name one cell, as `456 = 8 * 57`. -/
theorem cellOf_injOn {R : Nat} (hR : R = 4 ∨ R = 8) (off : Nat) : Set.InjOn (cellOf R off) (Set.Iio 456) := by
  intro k hk k' hk' h
  rw [Set.mem_Iio] at hk hk'
  simp only [cellOf, Prod.mk.injEq] at h
  obtain ⟨hrow, hplace⟩ := h
  have h8 := mod_eight_eq_of_cell hR hrow hplace
  have h57 := mod_57_eq_of_inRow hplace
  omega

/-- The coded bit that names cell `(r, j)` of eight rows at offset 0 or 4: 57 and 400 are 1 modulo one factor of 456 and 0
modulo the other, and 7 is the inverse of 49 modulo 57. -/
def codedBitAt (off r j : Nat) : Nat := (57 * ((r + off) % 8) + 400 * (7 * (j / 2))) % 456

/-- At offset 0 or 4, the coded bits name in row `r` the places of one parity (R214). -/
theorem exists_cellOf_iff {off r j : Nat} (hoff : off = 0 ∨ off = 4) (hr : r < 8) (hj : j < 114) :
    (∃ k < 456, cellOf 8 off k = (r, j)) ↔ j % 2 = (r + off) % 8 / 4 := by
  -- adding the offset and subtracting it is the same modulo 8
  have hrow (k : Nat) : (k + off) % 8 = r ↔ k % 8 = (r + off) % 8 := by rcases hoff with rfl | rfl <;> omega
  simp only [cellOf, Prod.mk.injEq, hrow]
  constructor
  · rintro ⟨k, -, hoctet, rfl⟩
    rw [inRow_mod_two, hoctet]
  · intro hparity
    have hoctet : codedBitAt off r j % 8 = (r + off) % 8 := by unfold codedBitAt; omega
    have hpair : inRow (codedBitAt off r j) / 2 = j / 2 := by rw [inRow_div_two]; unfold codedBitAt; omega
    have hplace : inRow (codedBitAt off r j) % 2 = j % 2 := by rw [inRow_mod_two, hoctet, hparity]
    exact ⟨codedBitAt off r j, Nat.mod_lt _ (by decide), hoctet, by omega⟩

/-! ## One write per index -/

section

variable {σ ι α : Type} [DecidableEq ι] {read : σ → ι → α} {write : σ → Nat → σ} {addr : Nat → ι} {val : Nat → α}
  (hwrite : ∀ s k, read (write s k) = Function.update (read s) (addr k) (val k))

include hwrite

theorem read_foldl_of_unnamed {n : Nat} {a : ι} (ha : ∀ k < n, addr k ≠ a) (s : σ) :
    read ((List.range n).foldl write s) a = read s a := by
  induction n with
  | zero => rfl
  | succ n ih =>
    rw [List.range_succ, List.foldl_append, List.foldl_cons, List.foldl_nil, hwrite,
      Function.update_of_ne (ha n n.lt_succ_self).symm, ih fun k hk => ha k (hk.trans n.lt_succ_self)]

theorem read_foldl_addr {n : Nat} (hinj : Set.InjOn addr (Set.Iio n)) {k : Nat} (hk : k < n) (s : σ) :
    read ((List.range n).foldl write s) (addr k) = val k := by
  induction n with
  | zero => exact absurd hk k.not_lt_zero
  | succ n ih =>
    rw [List.range_succ, List.foldl_append, List.foldl_cons, List.foldl_nil, hwrite]
    rcases Nat.lt_succ_iff_lt_or_eq.1 hk with hlt | rfl
    · have hne : addr k ≠ addr n := fun h => hlt.ne (hinj hk n.lt_succ_self h)
      rw [Function.update_of_ne hne, ih (hinj.mono (Set.Iio_subset_Iio n.le_succ)) hlt]
    · exact Function.update_self ..

end

/-! ## The cells of rows -/

section

variable {R : Nat}

/-- The bit in a cell of bit rows. -/
def bitCell (rows : Vector (BitVec 114) R) (a : Nat × Nat) : Bool := (rows[a.1]?.getD 0#114).getMsbD a.2

/-- The symbol in a cell of soft rows. -/
def softCell (rows : Vector (Vector Soft 114) R) (a : Nat × Nat) : Soft := cell rows a.1 a.2

theorem bitCell_of_lt (rows : Vector (BitVec 114) R) {r : Nat} (hr : r < R) (j : Nat) :
    bitCell rows (r, j) = rows[r].getMsbD j := by
  simp [bitCell, hr]

theorem softCell_of_lt (rows : Vector (Vector Soft 114) R) {r : Nat} (hr : r < R) {j : Nat} (hj : j < 114) :
    softCell rows (r, j) = rows[r][j] := by
  simp [softCell, cell, Vector.getD, hr, hj]

theorem bitCell_set_setBit (rows : Vector (BitVec 114) R) {r j : Nat} (hr : r < R) (hj : j < 114) (b : Bool) :
    bitCell (rows.set r (setBit rows[r] j b)) = Function.update (bitCell rows) (r, j) b := by
  funext ⟨r', j'⟩
  simp only [bitCell, Function.update_apply, Prod.mk.injEq, Vector.getElem?_set]
  by_cases h : r = r'
  · subst h
    simp [hr, getMsbD_setBit _ hj]
  · simp [h, Ne.symm h]

theorem getD_setIfInBounds {α : Type} {n : Nat} (v : Vector α n) {j : Nat} (hj : j < n) (a d : α) (i : Nat) :
    (v.setIfInBounds j a).getD i d = if i = j then a else v.getD i d := by
  by_cases h : i = j
  · subst h; simp [Vector.getD, hj]
  · simp [Vector.getD, h, Ne.symm h, Array.getD_eq_getD_getElem?]

theorem softCell_set_erased (rows : Vector (Vector Soft 114) R) {r j : Nat} (hr : r < R) (hj : j < 114) :
    softCell (rows.set r (rows[r].setIfInBounds j erasure)) = Function.update (softCell rows) (r, j) erasure := by
  funext ⟨r', j'⟩
  simp only [softCell, cell, Function.update_apply, Prod.mk.injEq, Vector.getElem?_set]
  by_cases h : r = r'
  · subst h
    simp [hr, getD_setIfInBounds _ hj]
  · simp [h, Ne.symm h]

/-! ## Interleaving and deinterleaving -/

theorem getD_deinterleave (off : Nat) (rows : Vector (Vector Soft 114) R) {k : Nat} (hk : k < 456) (d : Soft) :
    (deinterleave off rows).getD k d = softCell rows (cellOf R off k) :=
  getD_vecOf _ _ _ _ hk

variable [NeZero R] (off : Nat)

theorem bitCell_interleave_of_unnamed (c : BitVec 456) (rows : Vector (BitVec 114) R) {a : Nat × Nat}
    (ha : ∀ k < 456, cellOf R off k ≠ a) : bitCell (interleave off c rows) a = bitCell rows a :=
  read_foldl_of_unnamed (read := bitCell) (val := c.getMsbD)
    (fun _ k => bitCell_set_setBit _ (fst_cellOf_lt off k) (inRow_lt k) _) ha rows

theorem softCell_eraseConsumed_of_unnamed (rows : Vector (Vector Soft 114) R) {a : Nat × Nat}
    (ha : ∀ k < 456, cellOf R off k ≠ a) : softCell (eraseConsumed off rows) a = softCell rows a :=
  read_foldl_of_unnamed (read := softCell) (addr := cellOf R off) (val := fun _ => erasure)
    (fun _ k => softCell_set_erased _ (fst_cellOf_lt off k) (inRow_lt k)) ha rows

variable (hR : R = 4 ∨ R = 8)

include hR

theorem bitCell_interleave_cellOf (c : BitVec 456) (rows : Vector (BitVec 114) R) {k : Nat} (hk : k < 456) :
    bitCell (interleave off c rows) (cellOf R off k) = c.getMsbD k :=
  read_foldl_addr (read := bitCell) (addr := cellOf R off) (val := c.getMsbD)
    (fun _ k => bitCell_set_setBit _ (fst_cellOf_lt off k) (inRow_lt k) _) (cellOf_injOn hR off) hk rows

theorem softCell_eraseConsumed_cellOf (rows : Vector (Vector Soft 114) R) {k : Nat} (hk : k < 456) :
    softCell (eraseConsumed off rows) (cellOf R off k) = erasure :=
  read_foldl_addr (read := softCell) (addr := cellOf R off) (val := fun _ => erasure)
    (fun _ k => softCell_set_erased _ (fst_cellOf_lt off k) (inRow_lt k)) (cellOf_injOn hR off) hk rows

end

end Sys2Proof.Machine
end

section
/-! PROOFS. O31 and O32: the interleaver commands, whose rows are read from and packed into words row by row (R212, R213, R216,
R217). -/

namespace Sys2Proof.Machine

/-! ## Lists of blocks of one length -/

/-- An element of block `r` of a list of blocks of `m` elements each. -/
theorem getD_flatMap {α β : Type} {f : α → List β} {m : Nat} (hf : ∀ a, (f a).length = m) {l : List α} {r i : Nat}
    (hr : r < l.length) (hi : i < m) (d : β) : (l.flatMap f).getD (m * r + i) d = (f l[r]).getD i d := by
  induction l generalizing r with
  | nil => exact absurd hr r.not_lt_zero
  | cons a l ih =>
    rw [List.flatMap_cons]
    cases r with
    | zero => rw [List.getD_append _ _ _ _ (by rw [hf]; omega), Nat.mul_zero, Nat.zero_add, List.getElem_cons_zero]
    | succ r =>
      have hskip : m * (r + 1) + i - m = m * r + i := by rw [Nat.mul_succ]; omega
      rw [List.getD_append_right _ _ _ _ (by rw [hf, Nat.mul_succ]; omega), hf, hskip, ih (Nat.lt_of_succ_lt_succ hr),
        List.getElem_cons_succ]

theorem getD_take_drop {α : Type} (l : List α) (a : Nat) {m i : Nat} (hi : i < m) (d : α) :
    ((l.drop a).take m).getD i d = l.getD (a + i) d := by
  simp [List.getElem?_drop, hi]

/-- Symbol `i` of a packed soft vector. -/
theorem wordSoft_packSoft {n i : Nat} (v : Vector Soft n) (h : i < n) : wordSoft (packSoft v) i = v.getD i 0 := by
  rw [← wordSoft_packSoft_append v h [] 0, List.append_nil]

/-! ## Rows as words: 4 words a bit row, 29 words a soft row -/

section

variable {R r j : Nat} (hr : r < R)

include hr

theorem wordBit_flatMap_packBits (rows : Vector (BitVec 114) R) (hj : j < 128) :
    wordBit (rows.toList.flatMap packBits) (128 * r + j) = bitCell rows (r, j) := by
  have hword : (128 * r + j) / 32 = 4 * r + j / 32 := by omega
  have hbit : (128 * r + j) % 32 = j % 32 := by omega
  have hget := getD_flatMap (f := packBits) (m := 4) (l := rows.toList) (length_packBits (n := 114)) (r := r)
    (i := j / 32) (by simpa using hr) (by omega) 0
  rw [bitCell_of_lt rows hr, ← wordBit_packBits, wordBit, hword, hbit, hget, Vector.getElem_toList]
  rfl

theorem wordSoft_flatMap_packSoft (rows : Vector (Vector Soft 114) R) (hj : j < 114) :
    wordSoft (rows.toList.flatMap packSoft) (116 * r + j) = softCell rows (r, j) := by
  have hword : (116 * r + j) / 4 = 29 * r + j / 4 := by omega
  have hlane : (116 * r + j) % 4 = j % 4 := by omega
  have hget := getD_flatMap (f := packSoft) (m := 29) (l := rows.toList) (length_packSoft (n := 114)) (r := r)
    (i := j / 4) (by simpa using hr) (by omega) 0
  have hsoft : softCell rows (r, j) = rows[r].getD j 0 := by simp [softCell_of_lt rows hr hj, Vector.getD, hj]
  rw [hsoft, ← wordSoft_packSoft _ hj, wordSoft, hword, hlane, hget, Vector.getElem_toList]
  rfl

theorem bitCell_bitRow (rows : List Word) (hj : j < 114) :
    bitCell (vecOf R (bitRow rows)) (r, j) = wordBit rows (128 * r + j) := by
  have hword : (128 * r + j) / 32 = 4 * r + j / 32 := by omega
  have hbit : (128 * r + j) % 32 = j % 32 := by omega
  rw [bitCell_of_lt _ hr, getElem_vecOf, bitRow, getMsbD_unpackBits_eq_wordBit hj, wordBit, wordBit, hword, hbit,
    getD_take_drop _ _ (by omega)]

theorem softCell_softRow (rows : List Word) (hj : j < 114) :
    softCell (vecOf R (softRow rows)) (r, j) = wordSoft rows (116 * r + j) := by
  have hword : (116 * r + j) / 4 = 29 * r + j / 4 := by omega
  have hlane : (116 * r + j) % 4 = j % 4 := by omega
  rw [softCell_of_lt _ hr hj, getElem_vecOf, softRow, unpackSoft_eq_vecOf, getElem_vecOf, wordSoft, wordSoft, hword, hlane,
    getD_take_drop _ _ (by omega)]

end

/-- Packed rows hold zeros after their 114 bits (R114). -/
theorem bitCell_of_ge {R j : Nat} (rows : Vector (BitVec 114) R) (r : Nat) (hj : 114 ≤ j) : bitCell rows (r, j) = false :=
  BitVec.getMsbD_of_ge _ _ hj

/-- A symbol behind whole words. -/
theorem wordSoft_append_right (xs ws : List Word) (i : Nat) : wordSoft (xs ++ ws) (4 * xs.length + i) = wordSoft ws i := by
  have hword : (4 * xs.length + i) / 4 = xs.length + i / 4 := by omega
  have hlane : (4 * xs.length + i) % 4 = i % 4 := by omega
  rw [wordSoft, hword, hlane, List.getD_append_right _ _ _ _ (Nat.le_add_right ..), Nat.add_sub_cancel_left]
  rfl

/-- The check of a payload of soft rows (R115) is the check of each row read from it. -/
theorem all_legalSoft_softRow (R : Nat) (rows : List Word) : (vecOf R (softRow rows)).toList.all legalSoft =
    (List.range R).all fun r => softPayloadLegal 114 ((rows.drop (29 * r)).take 29) := by
  simp [vecOf, softRow, legalSoft_unpackSoft, Function.comp_def]

/-! ## The commands -/

theorem length_flatMap_packBits {R : Nat} (rows : Vector (BitVec 114) R) :
    (rows.toList.flatMap packBits).length = R * 4 := by
  simp [List.length_flatMap, bitWords]

theorem length_flatMap_packSoft {R : Nat} (rows : Vector (Vector Soft 114) R) :
    (rows.toList.flatMap packSoft).length = R * 29 := by
  simp [List.length_flatMap, softWords]

/-- The legal block offsets of the TCH interleaver commands stand for themselves (R120). -/
theorem argOffset_of_legal {arg : BitVec 16} (h : arg.toNat = 0 ∨ arg.toNat = 4) :
    (argOffset arg).isNone = false ∧ offsetOf arg = arg.toNat := by
  unfold offsetOf argOffset
  rcases h with h | h <;> rw [h] <;> exact ⟨rfl, rfl⟩

section

variable {s : State} (hs : s.ready)

include hs

theorem xcchInterleave_answers (coded : List Word) :
    exec (.xcchInterleave 0#8 0#16 coded) s = .next (s.answered 0x32000010#32
      ((xcchInterleave (unpackBits 456 coded)).toList.flatMap packBits)) :=
  State.command_answers (ch := 0#8) hs pureChecks_pass (by rw [length_flatMap_packBits]; rfl)

theorem xcchDeinterleave_answers {rows : List Word} (h : (Instr.xcchDeinterleave 0#8 0#16 rows).payloadLegal = true) :
    exec (.xcchDeinterleave 0#8 0#16 rows) s = .next (s.answered 0x33000072#32
      (packSoft (deinterleave 0 (softRows4 rows)))) := by
  have hlegal : (softRows4 rows).toList.all legalSoft = true := (all_legalSoft_softRow 4 rows).trans h
  refine State.command_answers hs ?_ (by rw [length_packSoft]; rfl)
  rw [hlegal]
  rfl

variable {arg : BitVec 16} (harg : arg.toNat = 0 ∨ arg.toNat = 4)

include harg

theorem tchInterleave_answers (coded rows : List Word) :
    exec (.tchInterleave 0#8 arg coded rows) s = .next (s.answered 0x34000020#32
      ((interleave arg.toNat (unpackBits 456 coded) (bitRows8 rows)).toList.flatMap packBits)) := by
  obtain ⟨hsome, hoff⟩ := argOffset_of_legal harg
  rw [← hoff]
  refine State.command_answers hs ?_ (by rw [length_flatMap_packBits]; rfl)
  rw [hsome]
  rfl

theorem tchDeinterleave_answers {rows : List Word} (h : (Instr.tchDeinterleave 0#8 arg rows).payloadLegal = true) :
    exec (.tchDeinterleave 0#8 arg rows) s = .next (s.answered 0x3500015A#32
      (packSoft (deinterleave arg.toNat (softRows8 rows)) ++
        (eraseConsumed arg.toNat (softRows8 rows)).toList.flatMap packSoft)) := by
  obtain ⟨hsome, hoff⟩ := argOffset_of_legal harg
  have hlegal : (softRows8 rows).toList.all legalSoft = true := (all_legalSoft_softRow 8 rows).trans h
  rw [← hoff]
  refine State.command_answers hs ?_ (by rw [List.length_append, length_packSoft, length_flatMap_packSoft]; rfl)
  rw [hsome, hlegal]
  rfl

end

end Sys2Proof.Machine

namespace Sys2Proof

open Machine

/-- Settles O31: the packed rows hold each coded bit in its cell, and the coded symbols are read from their cells. -/
theorem xcchInterleaveCommandsAnswer : Obligations.XcchInterleaveCommandsAnswer := by
  intro s hs
  constructor
  · intro coded
    refine ⟨_, xcchInterleave_answers hs coded, length_flatMap_packBits _, fun k hk => ?named, fun r j hr hge hj => ?padding⟩
    case named =>
      have hrow : k % 4 < 4 := Nat.mod_lt _ (by decide)
      exact (wordBit_flatMap_packBits hrow _ ((inRow_lt k).trans (by decide))).trans <|
        (bitCell_interleave_cellOf 0 (.inl rfl) _ _ hk).trans (getMsbD_unpackBits_eq_wordBit hk coded)
    case padding =>
      exact (wordBit_flatMap_packBits hr _ hj).trans (bitCell_of_ge _ r hge)
  · intro rows hlegal
    refine ⟨_, xcchDeinterleave_answers hs hlegal, length_packSoft _, fun k hk => ?_⟩
    have hrow : k % 4 < 4 := Nat.mod_lt _ (by decide)
    exact (wordSoft_packSoft _ hk).trans <|
      (getD_deinterleave 0 _ hk 0).trans (softCell_softRow hrow rows (inRow_lt k))

/-- Settles O32: as O31 for the named cells; a row's cells of the other parity are the unnamed ones, which keep their contents,
and the named ones are erased when they are read. -/
theorem tchInterleaveCommandsAnswer : Obligations.TchInterleaveCommandsAnswer := by
  intro s arg hs harg
  have hunnamed {r j : Nat} (hr : r < 8) (hj : j < 114) (hne : j % 2 ≠ (r + arg.toNat) % 8 / 4) :
      ∀ k < 456, cellOf 8 arg.toNat k ≠ (r, j) := fun k hk h => hne ((exists_cellOf_iff harg hr hj).1 ⟨k, hk, h⟩)
  constructor
  · intro coded rows
    refine ⟨_, tchInterleave_answers hs harg coded rows, length_flatMap_packBits _, fun k hk => ?named,
      fun r j hr hj hne => ?kept, fun r j hr hge hj => ?padding⟩
    case named =>
      have hrow : (k + arg.toNat) % 8 < 8 := Nat.mod_lt _ (by decide)
      exact (wordBit_flatMap_packBits hrow _ ((inRow_lt k).trans (by decide))).trans <|
        (bitCell_interleave_cellOf arg.toNat (.inr rfl) _ _ hk).trans (getMsbD_unpackBits_eq_wordBit hk coded)
    case kept =>
      exact (wordBit_flatMap_packBits hr _ (hj.trans (by decide))).trans <|
        (bitCell_interleave_of_unnamed arg.toNat _ _ (hunnamed hr hj hne)).trans (bitCell_bitRow hr rows hj)
    case padding =>
      exact (wordBit_flatMap_packBits hr _ hj).trans (bitCell_of_ge _ r hge)
  · intro rows hlegal
    refine ⟨_, tchDeinterleave_answers hs harg hlegal, ?length, fun k hk => ?read, fun r j hr hj => ?rows⟩
    case length => rw [List.length_append, length_packSoft, length_flatMap_packSoft]; rfl
    case read =>
      have hrow : (k + arg.toNat) % 8 < 8 := Nat.mod_lt _ (by decide)
      exact (wordSoft_packSoft_append _ hk _ 0).trans <|
        (getD_deinterleave arg.toNat _ hk 0).trans (softCell_softRow hrow rows (inRow_lt k))
    case rows =>
      have hskip := wordSoft_append_right (packSoft (deinterleave arg.toNat (softRows8 rows)))
        ((eraseConsumed arg.toNat (softRows8 rows)).toList.flatMap packSoft) (116 * r + j)
      rw [length_packSoft, wordSoft_flatMap_packSoft hr _ hj, ← Nat.add_assoc] at hskip
      refine hskip.trans ?_
      split
      · next hparity =>
        obtain ⟨k, hk, hcell⟩ := (exists_cellOf_iff harg hr hj).2 hparity
        rw [← hcell]
        exact softCell_eraseConsumed_cellOf arg.toNat (.inr rfl) _ hk
      · next hne =>
        exact (softCell_eraseConsumed_of_unnamed arg.toNat _ (hunnamed hr hj hne)).trans (softCell_softRow hr rows hj)

end Sys2Proof
end

section
/-! PROOFS. O58: interleaving and burst mapping read back through hard-decision images (R210, R211, R214, R215, R218, R219). -/

namespace Sys2Proof.Machine

open Config (Params)

/-- A symbol of a hard-decision image (R194). -/
theorem getD_image {n i : Nat} (v : BitVec n) (h : i < n) (d : Soft) : (image v).getD i d = softOf (v.getMsbD i) :=
  getD_vecOf _ _ _ _ h

theorem getElem_image {n i : Nat} (v : BitVec n) (h : i < n) : (image v)[i] = softOf (v.getMsbD i) :=
  getElem_vecOf _ _ _ h

theorem softCell_map_image {R r j : Nat} (rows : Vector (BitVec 114) R) (hr : r < R) (hj : j < 114) :
    softCell (rows.map image) (r, j) = softOf (bitCell rows (r, j)) := by
  rw [softCell_of_lt _ hr hj, bitCell_of_lt _ hr, Vector.getElem_map, getElem_image]

/-- Each coded bit is read from the cell it was put in, whatever the rows held before. -/
theorem deinterleave_image_interleave {R : Nat} [NeZero R] (hR : R = 4 ∨ R = 8) (off : Nat) (c : BitVec 456)
    (rows : Vector (BitVec 114) R) : deinterleave off ((interleave off c rows).map image) = image c := by
  refine Vector.ext fun k hk => ?_
  have hcell : softCell ((interleave off c rows).map image) (cellOf R off k) = softOf (c.getMsbD k) := by
    rw [← bitCell_interleave_cellOf off hR c rows hk]
    exact softCell_map_image _ (fst_cellOf_lt off k) (inRow_lt k)
  rw [deinterleave, getElem_vecOf, getElem_image]
  exact hcell

/-- The row is read from the positions of the burst it was put in. -/
theorem burstRow_image_normalBurst (P : Params) (row : BitVec 114) (hl hu : Bool) (t : BitVec 3) :
    burstRow (image (normalBurst P row hl hu t)) = image row := by
  refine Vector.ext fun i hi => ?_
  rw [burstRow, getElem_vecOf, getElem_image]
  split
  · next hlow =>
    rw [getD_image _ (by omega), getMsbD_normalBurst, if_neg (by omega), if_pos (by omega), Nat.add_sub_cancel_left]
  · next hhigh =>
    have hplace : 57 + (88 + (i - 57) - 88) = i := by omega
    rw [getD_image _ (by omega), getMsbD_normalBurst]
    simp (disch := omega) only [if_neg, if_pos, hplace]

theorem burstHl_image_normalBurst (P : Params) (row : BitVec 114) (hl hu : Bool) (t : BitVec 3) :
    burstHl (image (normalBurst P row hl hu t)) = softOf hl := by
  rw [burstHl, getD_image _ (by decide), getMsbD_normalBurst]
  rfl

theorem burstHu_image_normalBurst (P : Params) (row : BitVec 114) (hl hu : Bool) (t : BitVec 3) :
    burstHu (image (normalBurst P row hl hu t)) = softOf hu := by
  rw [burstHu, getD_image _ (by decide), getMsbD_normalBurst]
  rfl

end Sys2Proof.Machine

namespace Sys2Proof

open Machine

/-- Settles O58: each bit is read from where it was put, on 4 rows, on 8 rows and in a normal burst. -/
theorem interleavingRoundTrips : Obligations.InterleavingRoundTrips :=
  ⟨fun c => deinterleave_image_interleave (.inl rfl) 0 c _,
    fun off c rows _ => deinterleave_image_interleave (.inr rfl) off c rows,
    fun P row hl hu t => ⟨burstRow_image_normalBurst P row hl hu t, burstHl_image_normalBurst P row hl hu t,
      burstHu_image_normalBurst P row hl hu t⟩⟩

end Sys2Proof
end

section
/-! PROOFS. O44: the beacon commands send one burst (R222, R223, R291, R292). -/

namespace Sys2Proof.Machine

/-- The state after one burst of an open context: context `c`, rolled forward, and the records of the burst (R125, R247,
R258). -/
def State.burstSent (s : State) (ch : BitVec 8) (c : Ctx) (bits : BitVec 148) : State :=
  { s with
    ctx := s.ctx.set ch.toNat (c.roll hardware)
    tx := s.tx ++ [((0x01#8 ++ ch) ++ c.cfg.arfcn) :: timeWord c.enc.nextWT :: packBits bits]
    up := s.up ++ [[(0x15#8 ++ ch) ++ 1#16, timeWord (c.roll hardware).enc.nextWT]] }

/-- Sending a burst from a context just written. -/
theorem State.sendBurst_setCtx {s : State} {ch : BitVec 8} (hch : ch.toNat < s.ctx.length) (c : Ctx) (bits : BitVec 148) :
    (s.setCtx ch c).sendBurst hardware ch bits = s.burstSent ch c bits := by
  simp only [State.sendBurst, State.rollForward, State.getCtx_emitTx, State.getCtx_setCtx_self s c hch]
  simp [State.setCtx, State.emitTx, State.emitUp, txRecord, upRecord, State.burstSent]

section

variable {s : State} {ch : BitVec 8}

/-- An open context whose wait is over sends its burst from the resynced schedule (R248, R249). -/
theorem sendOne_sends (hch : ch.toNat < s.ctx.length) (hopen : (s.getCtx ch).enc.active = true)
    (hwait : 0 ≤ timeCmp hardware s.nowTime ((s.getCtx ch).resync hardware s.t0).enc.prevWT) (o : Opcode) (i : Instr)
    (bits : BitVec 148) :
    sendOne hardware o i ch bits s =
      .next ((s.burstSent ch ((s.getCtx ch).resync hardware s.t0) bits).answered (okStatus o.code 0) []) := by
  rw [sendOne, if_pos hopen, State.waitToSend, waitOver, if_pos (decide_eq_true hwait), State.sendBurst_setCtx hch,
    State.complete_eq_answered, List.length_nil]

/-- The checks of a beacon command pass on a configured context of its kind (R383). -/
theorem beaconChecks_pass (hs : s.readyOn ch) {k : Kind} (hk : (s.getCtx ch).cfg.kind = k) :
    firstFault [noContext hardware ch, argUsed 0#16, s.notRunning ch, s.notKind ch k] = none := by
  obtain ⟨-, hch, hrun⟩ := hs
  have hno : ¬ 64 ≤ ch.toNat := Nat.not_le.2 hch
  simp [firstFault_cons, noContext, argUsed, State.notRunning, State.notKind, hno, hrun, hk]

end

/-- The SCH burst of 25 data bits from a payload word, with the extended training sequence of this hardware (R165, R223). -/
theorem schBurst_hardware (data : Word) :
    schBurst hardware (convEncode (schUncoded hardware (unpackBits 25 [data]))) =
      let cc : BitVec 78 := convEncode ((data.extractLsb' 7 25 ++ ~~~remainder 0x175#10 (data.extractLsb' 7 25)) ++ 0#4)
      (((0#3 ++ slice cc 0 39) ++ Config.schTrain) ++ slice cc 39 39) ++ 0#3 := by
  rw [unpackBits_word (by decide)]
  rfl

end Sys2Proof.Machine

namespace Sys2Proof

open Machine

/-- Settles O44: the checks pass, and `sendOne` sends the burst of the command. -/
theorem beaconsSendOneBurst : Obligations.BeaconsSendOneBurst := by
  intro s ch data hs hopen hwait
  have ⟨hready, _, hrun⟩ := hs
  have hch : ch.toNat < s.ctx.length := State.lt_length_of_running hrun
  refine ⟨fun hk => ?sch, fun hk => ?fcch⟩
  case sch =>
    have hsend := sendOne_sends hch hopen hwait .schSend (.schSend ch 0#16 data)
      (schBurst hardware (convEncode (schUncoded hardware (unpackBits 25 [data]))))
    rw [← schBurst_hardware]
    exact (State.command_of_pass hready (beaconChecks_pass hs hk) ..).trans hsend
  case fcch =>
    exact (State.command_of_pass hready (beaconChecks_pass hs hk) ..).trans
      (sendOne_sends hch hopen hwait .fcchSend (.fcchSend ch 0#16) fcchBurst)

end Sys2Proof
end

section
/-! PROOFS. O50 and O51: the TDMA arithmetic and mapping commands (R240 to R243, R245, R251 to R255). O52: a roll forward (R243,
R247). -/

namespace Sys2Proof.Machine

/-! ## Time words and signed words -/

theorem legalTime_of_fields {w : Word} (hzero : w.extractLsb' 22 7 = 0#7) (hfn : (w.extractLsb' 0 22).toNat < 2715648) :
    legalTime hardware w = true := by
  rw [legalTime, hzero]
  exact decide_eq_true hfn

/-- The fields of the word of a time of R14 (R116). -/
theorem timeWord_fields {t : Time} (h : t.legal hardware = true) :
    (timeWord t).extractLsb' 29 3 = t.tn ∧ (timeWord t).extractLsb' 22 7 = 0#7 ∧
      ((timeWord t).extractLsb' 0 22).toNat = t.fn := by
  rw [Time.legal_hardware] at h
  refine ⟨?tn, ?zero, ?fn⟩
  case tn =>
    rw [timeWord, BitVec.extractLsb'_append_eq_of_le (by decide), BitVec.extractLsb'_append_eq_of_le (by decide)]
    exact BitVec.extractLsb'_eq_self
  case zero =>
    rw [timeWord, BitVec.extractLsb'_append_eq_of_le (by decide), BitVec.extractLsb'_append_eq_of_add_le (by decide)]
    exact BitVec.extractLsb'_eq_self
  case fn =>
    rw [timeWord, BitVec.extractLsb'_append_eq_of_add_le (by decide), BitVec.extractLsb'_eq_self, BitVec.toNat_ofNat]
    exact Nat.mod_eq_of_lt (h.trans (by decide))

theorem toInt_signedWord {i : Int} (hmin : -2 ^ 31 ≤ i) (hmax : i < 2 ^ 31) : (signedWord i).toInt = i :=
  BitVec.toInt_ofInt_eq_self (by decide) hmin hmax

/-! ## Frame numbers modulo the hyperframe (R240 to R243) -/

theorem fnOfInt_hardware (i : Int) : (fnOfInt hardware i : Int) = i % 2715648 :=
  Int.toNat_of_nonneg (Int.emod_nonneg i (by decide))

/-- `FNDelta` is the one representative of the difference in the half-open window (R241). -/
theorem fnDelta_window (a b : Nat) : -1357824 ≤ fnDelta hardware a b ∧ fnDelta hardware a b < 1357824 ∧
    (2715648 : Int) ∣ (a : Int) - b - fnDelta hardware a b := by
  rw [fnDelta_hardware]
  omega

theorem timeCmp_range (t u : Time) : -1 ≤ timeCmp hardware t u ∧ timeCmp hardware t u ≤ 1 := by
  have hsign (i : Int) : -1 ≤ i.sign ∧ i.sign ≤ 1 := by
    rcases Int.sign_trichotomy i with h | h | h <;> omega
  unfold timeCmp
  split <;> exact hsign _

/-- A time less than half a hyperframe ahead is later in TDMA order (R242). -/
theorem timeCmp_of_ahead {t u : Time} {d : Nat} (hd : 1 ≤ d) (hhalf : d < 1357824) (h : t.fn = (u.fn + d) % 2715648) :
    timeCmp hardware t u = 1 := by
  have hdelta : fnDelta hardware t.fn u.fn = d := by
    rw [fnDelta_hardware]
    omega
  have hpos : 0 < fnDelta hardware t.fn u.fn := by omega
  rw [timeCmp, if_pos hpos.ne', Int.sign_eq_one_of_pos hpos]

theorem rollTo_fn (t : Time) (target p : Nat) :
    ((rollTo hardware t target p).fn : Int) = (t.fn + (target - t.fn : Int) % p) % 2715648 := fnOfInt_hardware _

/-! ## Mappings -/

/-- Everything `reverse` can answer (R245): the first index of the frame's offset, or -1 where there is none. -/
theorem reverse_cases (M : Mapping) (fn : Nat) :
    (reverse M fn = -1 ∧ ∀ x ∈ M.forward, x.toNat ≠ fn % M.p.toNat) ∨
      ∃ i, ∃ h : i < M.forward.length, reverse M fn = i ∧ M.forward[i].toNat = fn % M.p.toNat ∧
        ∀ j, ∀ hj : j < i, (M.forward[j]).toNat ≠ fn % M.p.toNat := by
  cases hfind : M.forward.findIdx? fun w => w.toNat == fn % M.p.toNat with
  | none =>
    rw [List.findIdx?_eq_none_iff] at hfind
    exact .inl ⟨by simp only [reverse, List.findIdx?_eq_none_iff.2 hfind], by simpa using hfind⟩
  | some i =>
    have hrev : reverse M fn = i := by simp only [reverse, hfind]
    obtain ⟨hi, hat, hbefore⟩ := List.findIdx?_eq_some_iff_getElem.1 hfind
    exact .inr ⟨i, hi, hrev, by simpa using hat, fun j hj => by simpa using hbefore j hj⟩

/-- `dir` selects the uplink mapping exactly where `arg` is 1 (R120, R254). -/
theorem Ctx.mapping_argBit0 (c : Ctx) {arg : BitVec 16} (h : arg.toNat < 2) :
    c.mapping (argBit0 arg) = if arg = 1#16 then c.cfg.rxmap else c.cfg.txmap := by
  have harg : arg = 0#16 ∨ arg = 1#16 := by bv_omega
  rcases harg with rfl | rfl <;> rfl

/-- The offsets of a well-formed mapping are pairwise different (R244 condition 3). -/
theorem frameMapping_ne {M : Mapping} (hinc : M.forward.Pairwise fun a b => a.toNat < b.toNat) {j k : Nat}
    (h : j % M.m ≠ k % M.m) (hm : 0 < M.m) : frameMapping M j ≠ frameMapping M k := by
  have hj : j % M.m < M.forward.length := Nat.mod_lt j hm
  have hk : k % M.m < M.forward.length := Nat.mod_lt k hm
  rw [frameMapping, frameMapping, List.getD_eq_getElem _ _ hj, List.getD_eq_getElem _ _ hk]
  rw [List.pairwise_iff_getElem] at hinc
  rcases Nat.lt_or_gt_of_ne h with hlt | hgt
  · exact (hinc _ _ hj hk hlt).ne
  · exact (hinc _ _ hk hj hgt).ne'

/-- The offset after one of a mapping with at least two is another one. -/
theorem frameMapping_succ_ne {k : Kind} {tn : BitVec 3} {down : Bool} {M : Mapping}
    (h : mappingWf hardware k tn down M = true) (n : Nat) : frameMapping M (n + 1) ≠ frameMapping M n := by
  obtain ⟨hm, -, -, -, hinc, -⟩ := (mappingWf_iff k tn down M).1 h
  have hmod : (n + 1) % M.m ≠ n % M.m := fun e => by
    have : M.m ∣ 1 := by simpa using (Nat.modEq_iff_dvd' (Nat.le_succ n)).1 e.symm
    exact absurd (Nat.le_of_dvd one_pos this) (by rw [Mapping.m]; omega)
  exact frameMapping_ne hinc hmod (by rw [Mapping.m]; omega)

/-- How far a roll to a mapped offset other than the present one goes (R243): at least one frame, less than a period. -/
theorem rollTo_distance {t : Time} {target p : Nat} (ht : target < p) (hne : t.fn % p ≠ target) :
    ∃ d, 1 ≤ d ∧ d < p ∧ (rollTo hardware t target p).fn = (t.fn + d) % 2715648 := by
  have hp : (0 : Int) < p := by omega
  have hnonneg := Int.emod_nonneg ((target : Int) - t.fn) hp.ne'
  have hlt := Int.emod_lt_of_pos ((target : Int) - t.fn) hp
  have hpos : ((target : Int) - t.fn) % p ≠ 0 := fun h0 => hne <| by
    have hmod : (target : Int) % p = (t.fn : Int) % p := Int.emod_eq_emod_iff_emod_sub_eq_zero.2 h0
    have hmodNat : target % p = t.fn % p := by exact_mod_cast hmod
    rw [← hmodNat, Nat.mod_eq_of_lt ht]
  refine ⟨(((target : Int) - t.fn) % p).toNat, by omega, by omega, ?_⟩
  have hfn := rollTo_fn t target p
  omega

/-! ## The commands -/

section

variable {s : State} {a b : Word}

/-- Outside the fault state, a command whose checks pass answers its one word and changes nothing else. -/
theorem State.command_answers_word (hs : s.ready) {o : Opcode} {ch : BitVec 8} {checks : List (Bool × FaultCode)}
    (hc : firstFault checks = none) {status : Word} (hstatus : okStatus o.code 1 = status) (w : Word) :
    s.command o ch checks (.next (s.complete o [w])) = .next (s.answered status [w]) :=
  State.command_answers hs hc hstatus

/-- The checks of a command on two time words pass. -/
theorem timePairChecks_pass (ha : legalTime hardware a = true) (hb : legalTime hardware b = true) :
    firstFault [notGlobal 0#8, argUsed 0#16, notTime hardware a, notTime hardware b] = none := by
  simp [firstFault_cons, notGlobal, argUsed, notTime, ha, hb]

theorem fnAdd_answers (hs : s.ready) (ha : legalTime hardware a = true) (k : Word) :
    exec (.fnAdd 0#8 0#16 a k) s
      = .next (s.answered 0x80000001#32 [timeWord ⟨fnAdd hardware (timeOf a).fn k.toInt, (timeOf a).tn⟩]) := by
  refine State.command_answers_word hs ?_ rfl _
  simp [firstFault_cons, notGlobal, argUsed, notTime, ha]

variable (hs : s.ready) (ha : legalTime hardware a = true) (hb : legalTime hardware b = true)
include hs ha hb

theorem fnDelta_answers : exec (.fnDelta 0#8 0#16 a b) s
    = .next (s.answered 0x81000001#32 [signedWord (fnDelta hardware (timeOf a).fn (timeOf b).fn)]) :=
  State.command_answers_word hs (timePairChecks_pass ha hb) rfl _

theorem timeCmp_answers : exec (.timeCmp 0#8 0#16 a b) s
    = .next (s.answered 0x82000001#32 [signedWord (timeCmp hardware (timeOf a) (timeOf b))]) :=
  State.command_answers_word hs (timePairChecks_pass ha hb) rfl _

end

section

variable {s : State} {ch : BitVec 8} {arg : BitVec 16} {t : Word} {M : Mapping} (hs : s.readyOn ch) (harg : arg.toNat < 2)
  (ht : legalTime hardware t = true) (hM : (s.getCtx ch).mapping (argBit0 arg) = some M)
include hs harg ht hM

theorem mapChecks_pass : firstFault (s.mapChecks hardware ch arg t) = none := by
  obtain ⟨-, hch, hrun⟩ := hs
  have hno : ¬ 64 ≤ ch.toNat := Nat.not_le.2 hch
  simp [State.mapChecks, firstFault_cons, noContext, argAbove_of_lt (n := 1) harg, notTime, State.notRunning, hno, ht, hrun, hM]

theorem mapReverse_answers :
    exec (.mapReverse ch arg t) s = .next (s.answered 0x83000001#32 [signedWord (reverse M (timeOf t).fn)]) := by
  have hword : reverseWord ((s.getCtx ch).mapping (argBit0 arg)) (timeOf t) = signedWord (reverse M (timeOf t).fn) := by
    rw [hM, reverseWord]
  rw [← hword]
  exact State.command_answers_word hs.1 (mapChecks_pass hs harg ht hM) rfl _

theorem mapRoll_answers (k : Word) : exec (.mapRoll ch arg t k) s = .next (s.answered 0x84000001#32
    [timeWord (rollTo hardware (timeOf t) (frameMapping M k.toNat) M.p.toNat)]) := by
  have hword : rollWord hardware ((s.getCtx ch).mapping (argBit0 arg)) (timeOf t) k.toNat
      = timeWord (rollTo hardware (timeOf t) (frameMapping M k.toNat) M.p.toNat) := by
    rw [hM, rollWord]
  rw [← hword]
  exact State.command_answers_word hs.1 (mapChecks_pass hs harg ht hM) rfl _

end

end Sys2Proof.Machine

namespace Sys2Proof

open Machine

/-- Settles O50: each command's answer word read back as the number it stands for. -/
theorem timeCommandsAnswer : Obligations.TimeCommandsAnswer := by
  intro s a b k hs ha0 hafn
  have ha := legalTime_of_fields ha0 hafn
  refine ⟨⟨_, fnAdd_answers hs ha k, ?sum⟩, fun hb0 hbfn => ?delta⟩
  case sum =>
    obtain ⟨htn, hzero, hfn⟩ :=
      timeWord_fields (t := ⟨fnAdd hardware (timeOf a).fn k.toInt, (timeOf a).tn⟩) (decide_eq_true (fnOfInt_lt (by decide) _))
    exact ⟨htn, hzero, (congrArg Nat.cast hfn).trans (fnOfInt_hardware _)⟩
  case delta =>
    have hb := legalTime_of_fields hb0 hbfn
    obtain ⟨hmin, hmax, hdvd⟩ := fnDelta_window (timeOf a).fn (timeOf b).fn
    obtain ⟨hcmin, hcmax⟩ := timeCmp_range (timeOf a) (timeOf b)
    have hd := toInt_signedWord (i := fnDelta hardware (timeOf a).fn (timeOf b).fn) (by omega) (by omega)
    have hw := toInt_signedWord (i := timeCmp hardware (timeOf a) (timeOf b)) (by omega) (by omega)
    refine ⟨_, _, fnDelta_answers hs ha hb, ?_, ?_, ?_, timeCmp_answers hs ha hb, ?_⟩ <;> rw [hd]
    · exact hmin
    · exact hmax
    · exact hdvd
    · exact hw

/-- Settles O51: both answers from the mapping that `dir` selects, through `reverse_cases` and `rollTo_fn`. -/
theorem mappingCommandsAnswer : Obligations.MappingCommandsAnswer := by
  intro s ch arg t k M hs harg ht0 htfn hM hlen
  have ht := legalTime_of_fields ht0 htfn
  have hsel : (s.getCtx ch).mapping (argBit0 arg) = some M := (Ctx.mapping_argBit0 _ harg).trans hM
  refine ⟨⟨_, mapReverse_answers hs harg ht hsel, ?reverse⟩, ⟨_, mapRoll_answers hs harg ht hsel k, ?roll⟩⟩
  case reverse =>
    rcases reverse_cases M (timeOf t).fn with ⟨hrev, hnone⟩ | ⟨i, hi, hrev, hat, hbefore⟩ <;> rw [hrev]
    · exact .inl ⟨rfl, hnone⟩
    · exact .inr ⟨i, hi, toInt_signedWord (by omega) (by omega), hat, hbefore⟩
  case roll =>
    obtain ⟨htn, hzero, hfn⟩ := timeWord_fields (rollTo_legal_hardware (timeOf t) (frameMapping M k.toNat) M.p.toNat)
    exact ⟨htn, hzero, (congrArg Nat.cast hfn).trans (rollTo_fn ..)⟩

/-- Settles O52: the next offset is another one, so the roll goes at least one frame and less than a period. -/
theorem rollForwardAdvances : Obligations.RollForwardAdvances := by
  intro c M hM hwf hsched hcount
  obtain ⟨hdvd, hlt⟩ := Mapping.periodic_of_wf hwf
  obtain ⟨-, -, hoff⟩ := (Ctx.onSchedule_some hM).1 hsched
  have hcounted : (countBurst hardware c.enc.totalBursts).toNat = c.enc.totalBursts.toNat + 1 := by
    rw [countBurst_hardware, BitVec.toNat_add]
    exact Nat.mod_eq_of_lt hcount
  have hne : c.enc.nextWT.fn % M.p.toNat ≠ frameMapping M (countBurst hardware c.enc.totalBursts).toNat := by
    rw [hoff, hcounted]
    exact (frameMapping_succ_ne hwf _).symm
  obtain ⟨d, hd, hdp, hfn⟩ := rollTo_distance (hlt _) hne
  rw [Ctx.roll_some hardware hM]
  exact ⟨rfl, hcounted, rfl, d, hd, hdp, hfn, rollTo_fn_mod _ hdvd (hlt _), fun hhalf => timeCmp_of_ahead hd hhalf hfn⟩

end Sys2Proof
end

section
/-! PROOFS. O39: what `RX_BURST` does with a burst before any decoding (R246, R286, R287). O46: the sending commands hold or
discard (R249, R282). O47: `RESYNC` and `WAIT_TO_SEND` (R248, R250, R256, R257). -/

namespace Sys2Proof.Machine

section

variable {s : State} {ch : BitVec 8}

/-! ## Waiting -/

/-- Before the write time a wait holds its command (R249, R392). -/
theorem State.waitToSend_holds {w : Time} (hwait : timeCmp hardware s.nowTime w < 0) (i : Instr) (done : State) :
    s.waitToSend hardware i w done = .next (s.holding i) := by
  rw [State.waitToSend, waitOver, decide_eq_false (not_le.2 hwait)]
  rfl

/-- From the write time on a wait goes on (R249). -/
theorem State.waitToSend_done {w : Time} (hwait : 0 ≤ timeCmp hardware s.nowTime w) (i : Instr) (done : State) :
    s.waitToSend hardware i w done = .next done := by
  rw [State.waitToSend, waitOver, if_pos (decide_eq_true hwait)]

/-- A sending command on an open encoder holds before its write time (R249). -/
theorem sender_holds (hopen : (s.getCtx ch).enc.active = true) {w : Time} (hwait : timeCmp hardware s.nowTime w < 0)
    (i : Instr) (done : State) (closed : Result) :
    (if (s.getCtx ch).enc.active then s.waitToSend hardware i w done else closed) = .next (s.holding i) := by
  rw [if_pos hopen, State.waitToSend_holds hwait]

/-- A sending command on a closed encoder completes with no effect (R282, R380). -/
theorem sender_discards (hclosed : (s.getCtx ch).enc.active = false) (o : Opcode) (send : Result) :
    (if (s.getCtx ch).enc.active then send else .next (s.complete o [])) = .next (s.answered (okStatus o.code 0) []) := by
  rw [if_neg (Bool.eq_false_iff.1 hclosed), State.complete_eq_answered, List.length_nil]

/-! ## Resynchronising -/

theorem Ctx.resync_of_outside {c : Ctx} {t0 : Time}
    (h : fnDelta hardware c.enc.nextWT.fn t0.fn < 0 ∨ 1326 < fnDelta hardware c.enc.nextWT.fn t0.fn) :
    c.resync hardware t0 = c.reseat hardware t0 := if_pos h

theorem Ctx.resync_of_inside {c : Ctx} {t0 : Time} (hmin : 0 ≤ fnDelta hardware c.enc.nextWT.fn t0.fn)
    (hmax : fnDelta hardware c.enc.nextWT.fn t0.fn ≤ 1326) : c.resync hardware t0 = c := if_neg (by omega)

/-- The latency cap and the resynchronisation do not touch the same fields (R248, R322). -/
theorem Ctx.resync_capSpeech (P : Config.Params) (c : Ctx) (cap : Word) (t0 : Time) :
    (c.capSpeech cap).resync P t0 = (c.resync P t0).capSpeech cap := by
  have hreseat : (c.capSpeech cap).reseat P t0 = (c.reseat P t0).capSpeech cap := by
    rcases hM : c.cfg.txmap with _ | M
    · rw [Ctx.reseat_none P hM]
      exact Ctx.reseat_none (c := c.capSpeech cap) P hM t0
    · rw [Ctx.reseat_some P hM]
      exact Ctx.reseat_some (c := c.capSpeech cap) P hM t0
  unfold Ctx.resync
  rw [apply_ite (Ctx.capSpeech · cap), hreseat]
  rfl

/-! ## Checks -/

/-- The checks of a command on a configured context pass up to the ones that are its own (R383). -/
theorem contextChecks (hs : s.readyOn ch) (own : List (Bool × FaultCode)) :
    firstFault (noContext hardware ch :: argUsed 0#16 :: s.notRunning ch :: own) = firstFault own := by
  obtain ⟨-, hch, hrun⟩ := hs
  have hno : ¬ 64 ≤ ch.toNat := Nat.not_le.2 hch
  simp [firstFault_cons, noContext, argUsed, State.notRunning, hno, hrun]

/-- `L2_DATA` on a configured XCCH or SACCH context sends its frame (R282). -/
theorem l2Data_sends (hs : s.readyOn ch) (hk : (s.getCtx ch).cfg.kind = .xcch ∨ (s.getCtx ch).cfg.kind = .sacch)
    (frame : List Word) : exec (.l2Data ch 0#16 frame) s
      = xcchSend hardware (.l2Data ch 0#16 frame) ch (unpackBits 184 frame) s := by
  have hne : (s.getCtx ch).cfg.kind ≠ .tch := by rcases hk with hk | hk <;> simp [hk]
  refine (State.command_of_pass hs.1 ?_ ..).trans (if_neg hne)
  rw [contextChecks hs]
  rcases hk with hk | hk <;> simp [firstFault_cons, facchFull, hk, Kind.takesData]

/-- The checks of `RESYNC` and `WAIT_TO_SEND` pass on a configured context with an encoder. -/
theorem encoderChecks_pass (hs : s.readyOn ch) (hk : (s.getCtx ch).cfg.kind.hasEncoder = true) :
    firstFault [noContext hardware ch, argUsed 0#16, s.notRunning ch, s.noEncoder ch] = none := by
  rw [contextChecks hs]
  simp [firstFault_cons, State.noEncoder, hk]

/-- Of the checks of `RX_BURST`, on a configured context with a decoder and on a legal payload only the demux check is left
(R286). -/
theorem rxBurstChecks (hs : s.readyOn ch) {time : Word} {sym : List Word} (htime : legalTime hardware time = true)
    (hsym : softPayloadLegal 148 sym = true) (hdec : (s.getCtx ch).hasDecoder = true) :
    firstFault [noContext hardware ch, argUsed 0#16, (!legalTime hardware time, .badArgument),
      (!legalSoft (unpackSoft 148 sym), .badArgument), s.notRunning ch, (!(s.getCtx ch).hasDecoder, .wrongKind),
      (demuxFails (s.getCtx ch) (timeOf time), .demuxMisconfig)]
      = if demuxFails (s.getCtx ch) (timeOf time) then some .demuxMisconfig else none := by
  obtain ⟨-, hch, hrun⟩ := hs
  have hno : ¬ 64 ≤ ch.toNat := Nat.not_le.2 hch
  simp [firstFault_cons, noContext, argUsed, State.notRunning, legalSoft_unpackSoft, hno, hrun, htime, hsym, hdec]

/-! ## Receiving -/

/-- `reverse` is negative exactly off the mapping (R245). -/
theorem reverse_nonneg_iff (M : Mapping) (fn : Nat) : 0 ≤ reverse M fn ↔ ∃ w ∈ M.forward, w.toNat = fn % M.p.toNat := by
  rcases reverse_cases M fn with ⟨hrev, hnone⟩ | ⟨i, hi, hrev, hat, -⟩ <;> rw [hrev]
  · exact ⟨fun h => absurd h (by decide), fun ⟨w, hw, h⟩ => absurd h (hnone w hw)⟩
  · exact ⟨fun _ => ⟨_, List.getElem_mem hi, hat⟩, fun _ => Int.natCast_nonneg i⟩

/-- The demux check passes exactly on the context's timeslot and mapping (R246). -/
theorem demuxFails_eq_false_iff {c : Ctx} {M : Mapping} (hM : c.cfg.rxmap = some M) (t : Time) :
    demuxFails c t = false ↔ t.tn = c.cfg.tn ∧ ∃ w ∈ M.forward, w.toNat = t.fn % M.p.toNat := by
  rw [← reverse_nonneg_iff]
  simp [demuxFails, hM]

section

variable (hs : s.readyOn ch) {time : Word} {sym : List Word} (htime : legalTime hardware time = true)
  (hsym : softPayloadLegal 148 sym = true) (hdec : (s.getCtx ch).hasDecoder = true) (meas : Word)
include hs htime hsym hdec

theorem rxBurst_faults (hdemux : demuxFails (s.getCtx ch) (timeOf time) = true) :
    exec (.rxBurst ch 0#16 time meas sym) s = .next (s.afterFault 0x50#8 ch 0x06#8) := by
  refine State.command_of_fault hs.1 (f := .demuxMisconfig) ?_ ..
  rw [rxBurstChecks hs htime hsym hdec, if_pos hdemux]

variable (hdemux : demuxFails (s.getCtx ch) (timeOf time) = false)
include hdemux

theorem rxBurst_ignored (hclosed : (s.getCtx ch).dec.active s.nowMs = false) :
    exec (.rxBurst ch 0#16 time meas sym) s = .next (s.answered 0x50000000#32 []) := by
  refine (State.command_of_pass hs.1 ?_ ..).trans (if_neg (Bool.eq_false_iff.1 hclosed))
  rw [rxBurstChecks hs htime hsym hdec, hdemux]
  rfl

theorem rxBurst_accepted (hopen : (s.getCtx ch).dec.active s.nowMs = true) :
    exec (.rxBurst ch 0#16 time meas sym) s
      = .next ((s.acceptBurst hardware ch (rxBurstOf time meas sym)).answered 0x50000000#32 []) := by
  refine (State.command_of_pass hs.1 ?_ ..).trans (if_pos hopen)
  rw [rxBurstChecks hs htime hsym hdec, hdemux]
  rfl

end

/-- A RACH context queues a burst while its queue has room (R287). -/
theorem State.acceptBurst_queued (hk : (s.getCtx ch).cfg.kind = .rach) (hroom : (s.getCtx ch).dec.rachQ.length < 16)
    (b : RxBurst) : s.acceptBurst hardware ch b = s.updDec ch fun d => { d with rachQ := d.rachQ ++ [b] } := by
  simp [State.acceptBurst, hk, State.rachEnqueue, hroom]

/-- A RACH context whose queue is full counts the burst as dropped (R287). -/
theorem State.acceptBurst_dropped (hk : (s.getCtx ch).cfg.kind = .rach) (hfull : 16 ≤ (s.getCtx ch).dec.rachQ.length)
    (b : RxBurst) :
    s.acceptBurst hardware ch b = { s with csr := { s.csr with rachDrops := s.csr.rachDrops + 1#32 } } := by
  simp [State.acceptBurst, hk, State.rachEnqueue, hfull.not_gt]

end

end Sys2Proof.Machine

namespace Sys2Proof

open Machine

/-- Settles O39: the demux check decides between the fault and the rest; an open RACH context queues or drops. -/
theorem rxBurstIgnoredOrQueued : Obligations.RxBurstIgnoredOrQueued := by
  intro s ch time meas sym M hs htime hsym hdec hM
  have honMap := demuxFails_eq_false_iff hM (timeOf time)
  refine ⟨fun hoff => ?fault, fun hon hclosed => ?ignored, fun hon hopen hk hroom => ?queued,
    fun hon hopen hk hfull => ?dropped⟩
  case fault => exact rxBurst_faults hs htime hsym hdec meas (Bool.eq_true_of_not_eq_false (mt honMap.1 hoff))
  case ignored => exact rxBurst_ignored hs htime hsym hdec meas (honMap.2 hon) hclosed
  case queued =>
    rw [rxBurst_accepted hs htime hsym hdec meas (honMap.2 hon) hopen, State.acceptBurst_queued hk hroom]
    rfl
  case dropped =>
    rw [rxBurst_accepted hs htime hsym hdec meas (honMap.2 hon) hopen, State.acceptBurst_dropped hk hfull]

/-- Settles O46: every sending command is a wait behind the test of the encoder, so it holds or discards as `sender_holds` and
`sender_discards` say; `TCH_SEND_SLOT` caps its queue first, which does not move its write time. -/
theorem sendersHoldOrDiscard : Obligations.SendersHoldOrDiscard := by
  intro s ch data frame hs
  have ⟨hready, _, _⟩ := hs
  have hcap : (((s.getCtx ch).capSpeech s.csr.maxSpeechLatency).resync hardware s.t0).enc.prevWT
      = ((s.getCtx ch).resync hardware s.t0).enc.prevWT := by
    rw [Ctx.resync_capSpeech]
    rfl
  refine ⟨fun hopen hwait => ?holds, fun hwait hk => ?waits, fun hclosed => ?discards⟩
  case holds =>
    refine ⟨fun hk => ?data, fun hk => ?sch, fun hk => ?fcch, fun hk => ?tch⟩
    case data =>
      rw [l2Data_sends hs hk]
      exact sender_holds hopen hwait ..
    case sch | fcch =>
      exact (State.command_of_pass hready (beaconChecks_pass hs hk) ..).trans (sender_holds hopen hwait ..)
    case tch =>
      rw [← hcap] at hwait
      exact (State.command_of_pass hready (beaconChecks_pass hs hk) ..).trans (sender_holds hopen hwait ..)
  case waits =>
    exact (State.command_of_pass hready (encoderChecks_pass hs hk) ..).trans (State.waitToSend_holds hwait ..)
  case discards =>
    refine ⟨fun hk => ?data, fun hk => ?sch, fun hk => ?fcch, fun hk => ?tch⟩
    case data =>
      rw [l2Data_sends hs hk]
      exact sender_discards hclosed ..
    case sch | fcch | tch =>
      exact (State.command_of_pass hready (beaconChecks_pass hs hk) ..).trans (sender_discards hclosed ..)

/-- Settles O47: `FNDelta` outside its window reseats, inside it nothing moves; the wait that is over completes. -/
theorem resyncAndWaitComplete : Obligations.ResyncAndWaitComplete := by
  intro s ch hs hk
  have ⟨hready, _, _⟩ := hs
  have hresync : exec (.resync ch 0#16) s
      = .next ((s.setCtx ch ((s.getCtx ch).resync hardware s.nowTime)).answered 0x65000000#32 []) :=
    State.command_of_pass hready (encoderChecks_pass hs hk) ..
  refine ⟨fun M hM hout => ?reseats, fun hmin hmax => ?stays, fun hwait => ?waits⟩
  case reseats =>
    refine ⟨_, rfl, rollTo_fn ⟨s.nowTime.fn, (s.getCtx ch).cfg.tn⟩ _ _, ?_⟩
    rw [hresync, Ctx.resync_of_outside hout, Ctx.reseat_some hardware hM]
    rfl
  case stays => rw [hresync, Ctx.resync_of_inside hmin hmax, State.setCtx_getCtx]
  case waits =>
    exact (State.command_of_pass hready (encoderChecks_pass hs hk) ..).trans (State.waitToSend_done hwait ..)

end Sys2Proof
end

section
/-! PROOFS. O20 to O22, O24 and O25: the system and context commands (R270, R271, R273 to R275). O10: unassigned operation codes
(R122, R284). -/

namespace Sys2Proof.Machine

/-! ## Checks of the global commands -/

section

variable {s : State} {ch : BitVec 8} {arg : BitVec 16}

/-- Outside the fault state a command on a channel that it may not name faults `BAD_CHANNEL` before any other check (R383). -/
theorem State.command_badChannel (hs : s.ready) {c : Bool × FaultCode} (hc : c = (true, .badChannel)) (o : Opcode)
    (rest : List (Bool × FaultCode)) (e : Result) :
    s.command o ch (c :: rest) e = .next (s.afterFault o.code ch 0x03#8) := by
  rw [State.command_of_fault hs (f := .badChannel) (by rw [hc, firstFault_fail]), State.takeFault_eq_afterFault]
  rfl

theorem notGlobal_of_ne (h : ch ≠ 0#8) : notGlobal ch = (true, .badChannel) := by simp [notGlobal, h]

theorem noContext_of_ge (h : 64 ≤ ch.toNat) : noContext hardware ch = (true, .badChannel) := by simp [noContext, h]

/-- The checks of a command that needs no configured context pass on a context that exists (R383). -/
theorem statusChecks_pass (h : ch.toNat < 64) : firstFault [noContext hardware ch, argUsed 0#16] = none := by
  have hno : ¬ 64 ≤ ch.toNat := Nat.not_le.2 h
  simp [firstFault_cons, noContext, argUsed, hno]

/-! ## `CSR_WRITE` -/

/-- `CSR_WRITE` of a register that takes the value (R270). -/
theorem csrWrite_writes (hs : s.ready) {v : Word} {r : Csr} (hw : s.csr.write hardware arg v = some r) :
    exec (.csrWrite 0#8 arg v) s = .next (State.answered { s with csr := r } 0x02000000#32 []) := by
  refine (State.command_of_pass hs ?_ ..).trans ?_
  · rw [hw]; rfl
  · rw [hw]; rfl

/-- `CSR_WRITE` of a register that is not written or does not take the value (R270). -/
theorem csrWrite_faults (hs : s.ready) {v : Word} (hw : s.csr.write hardware arg v = none) :
    exec (.csrWrite 0#8 arg v) s = .next (s.afterFault 0x02#8 0#8 0x07#8) :=
  State.command_of_fault hs (f := .badArgument) (by rw [hw]; rfl) ..

/-- The timeouts a register takes (R34). -/
theorem legalTimeout_iff (v : Word) : legalTimeout v = true ↔ 1 ≤ v.toNat ∧ v.toNat < 2 ^ 31 := by
  rw [legalTimeout, Bool.and_eq_true, bne_iff_ne, Bool.not_eq_true', BitVec.msb_eq_false_iff_two_mul_lt, Ne,
    BitVec.toNat_eq, BitVec.toNat_ofNat]
  omega

/-- A register that keeps the low `k` bits of the value written (R33, R35). -/
theorem setWidth_lowField (v : Word) {k : Nat} (hk : k ≤ 32) :
    (v.extractLsb' 0 k).setWidth 32 = v &&& BitVec.ofNat 32 (2 ^ k - 1) := by
  have hpow : 2 ^ k ≤ 2 ^ 32 := Nat.pow_le_pow_right (by decide) hk
  have hpos : 0 < 2 ^ k := Nat.two_pow_pos k
  have hmask : (2 ^ k - 1) % 2 ^ 32 = 2 ^ k - 1 := Nat.mod_eq_of_lt (by omega)
  have hlow : v.toNat % 2 ^ k % 2 ^ 32 = v.toNat % 2 ^ k := Nat.mod_eq_of_lt ((Nat.mod_lt _ hpos).trans_le hpow)
  refine BitVec.eq_of_toNat_eq ?_
  rw [BitVec.toNat_setWidth, BitVec.extractLsb'_toNat, Nat.shiftRight_zero, hlow, BitVec.toNat_and, BitVec.toNat_ofNat, hmask,
    Nat.and_two_pow_sub_one_eq_mod]

/-- Only the indices 2 to 6 name registers that `CSR_WRITE` writes (R270). -/
theorem Csr.write_unwritable (r : Csr) (v : Word) (h : arg.toNat < 2 ∨ 6 < arg.toNat) : r.write hardware arg v = none := by
  unfold Csr.write
  split
  case h_6 => rfl
  all_goals omega

end

/-! ## `CSR_READ` -/

section

variable {s : State} {ch : BitVec 8} {arg : BitVec 16}

/-- `CSR_READ` of a register, in the fault state too (R271). -/
theorem csrRead_answers {w : Word} (hr : s.csrRead hardware arg = some w) :
    exec (.csrRead 0#8 arg) s = .next (s.answered 0x03000001#32 [w]) := by
  have hpass : firstFault [notGlobal 0#8, ((s.csrRead hardware arg).isNone, .badArgument)] = none := by rw [hr]; rfl
  show execCsrRead 0#8 arg s = _
  rw [execCsrRead, hpass, hr, State.complete_eq_answered, List.length_singleton]
  rfl

/-- `CSR_READ` with a failing check faults, or is blocked in the fault state (R271, R385). -/
theorem csrRead_refuses {f : FaultCode}
    (hf : firstFault [notGlobal ch, ((s.csrRead hardware arg).isNone, .badArgument)] = some f) :
    exec (.csrRead ch arg) s
      = .next (if s.csr.fault.getLsbD 31 then s.afterBlock 0x03#8 else s.afterFault 0x03#8 ch f.code) := by
  show execCsrRead ch arg s = _
  rw [execCsrRead, hf, apply_ite Host.Outcome.next]
  rfl

theorem State.csrRead_reserved (s : State) (h : 0xD < arg.toNat) : s.csrRead hardware arg = none := by
  unfold State.csrRead
  split
  case h_15 => rfl
  all_goals omega

end

/-! ## Status words -/

/-- The status of a timer in plain terms (R275, R358). -/
theorem Timer.status_eq (T : Timer) (now : Word) : T.status now =
    if T.armed = false then 0#2 else if T.timeout.toNat ≤ (now - T.start).toNat then 2#2 else 1#2 := by
  cases h : T.armed <;> simp [Timer.status, Timer.expired, h]

theorem Timer.expired_eq_status (T : Timer) (now : Word) : T.expired now = (T.status now == 2#2) := by
  unfold Timer.status
  cases harmed : T.armed
  · simp [Timer.expired, harmed]
  · cases T.expired now <;> rfl

/-- Word 0 of `CH_STATUS`, field by field (R275). -/
theorem statusFlags_fields (c : Ctx) (now : Word) :
    (statusFlags c now).extractLsb' 28 4 = kindCode c.cfg.kind ∧ (statusFlags c now).extractLsb' 25 3 = c.cfg.tn ∧
    (statusFlags c now).getLsbD 24 = c.cfg.c0 ∧ (statusFlags c now).extractLsb' 14 10 = 0#10 ∧
    (statusFlags c now).extractLsb' 12 2 = c.dec.t3111.status now ∧
    (statusFlags c now).extractLsb' 10 2 = c.dec.t3109.status now ∧
    (statusFlags c now).extractLsb' 8 2 = c.dec.t3101.status now ∧
    (statusFlags c now).getLsbD 7 = c.enc.prevFACCH ∧ (statusFlags c now).getLsbD 6 = (c.enc.offset == .four) ∧
    (statusFlags c now).getLsbD 5 = c.dec.phyNew ∧ (statusFlags c now).getLsbD 4 = c.dec.recyclable now ∧
    (statusFlags c now).getLsbD 3 = c.dec.active now ∧ (statusFlags c now).getLsbD 2 = c.dec.accepting ∧
    (statusFlags c now).getLsbD 1 = c.enc.active ∧ (statusFlags c now).getLsbD 0 = c.cfg.running := by
  unfold statusFlags
  refine ⟨?kind, ?tn, ?c0, ?zeros, ?t3111, ?t3109, ?t3101, ?prevFACCH, ?offset, ?phyNew, ?recyclable, ?decActive, ?accepting,
    ?active, ?running⟩
  case kind =>
    repeat rw [BitVec.extractLsb'_append_eq_of_le (by decide)]
    exact BitVec.extractLsb'_eq_self
  case tn | zeros | t3111 | t3109 | t3101 =>
    repeat rw [BitVec.extractLsb'_append_eq_of_le (by decide)]
    exact BitVec.extractLsb'_append_eq_right
  case c0 | prevFACCH | offset | phyNew | recyclable | decActive | accepting | active | running =>
    simp only [BitVec.getLsbD_append]
    simp

/-- Word 4 of `CH_STATUS`, field by field (R275). -/
theorem statusQueues_fields (c : Ctx) :
    (statusQueues c).extractLsb' 24 8 = BitVec.ofNat 8 c.enc.speechQ.length ∧
    (statusQueues c).extractLsb' 16 8 = BitVec.ofNat 8 c.enc.facchQ.length ∧
    (statusQueues c).extractLsb' 8 8 = BitVec.ofNat 8 c.dec.rachQ.length ∧
    (statusQueues c).extractLsb' 0 8 = statusTag c.cfg := by
  unfold statusQueues
  refine ⟨?speech, ?facch, ?rach, ?tag⟩
  case speech =>
    repeat rw [BitVec.extractLsb'_append_eq_of_le (by decide)]
    exact BitVec.extractLsb'_eq_self
  case facch | rach | tag =>
    repeat rw [BitVec.extractLsb'_append_eq_of_le (by decide)]
    exact BitVec.extractLsb'_append_eq_right

theorem length_statusWords (c : Ctx) (now : Word) : (statusWords c now).length = 6 := rfl

/-- `CH_STATUS` answers the six status words, on any context that exists (R275). -/
theorem chStatus_answers {s : State} (hs : s.ready) {ch : BitVec 8} (hch : ch.toNat < 64) :
    exec (.chStatus ch 0#16) s = .next (s.answered 0x06000006#32 (statusWords (s.getCtx ch) s.nowMs)) :=
  State.command_answers hs (statusChecks_pass hch) (by rw [length_statusWords]; rfl)

/-- A context put back to reset reads as reset, whether or not it exists. -/
theorem State.getCtx_setCtx_reset (s : State) (ch : BitVec 8) : (s.setCtx ch .reset).getCtx ch = .reset := by
  by_cases h : ch.toNat < s.ctx.length
  · exact s.getCtx_setCtx_self _ h
  · exact List.getD_eq_default _ _ (by simpa using h)

/-- Every status word of the reset context is 0 (R275, R411). -/
theorem statusWords_reset (now : Word) : statusWords .reset now = [0#32, 0#32, 0#32, 0#32, 0#32, 0#32] := by
  have hstatus (T : Timer) (h : T.armed = false) : T.status now = 0#2 := by rw [Timer.status_eq, if_pos h]
  have hflags : statusFlags .reset now = 0#32 := by
    have hrecyclable : Ctx.reset.dec.recyclable now = false := rfl
    have hactive : Ctx.reset.dec.active now = false := rfl
    rw [statusFlags, hstatus _ rfl, hstatus _ rfl, hstatus _ rfl, hrecyclable, hactive]
    rfl
  rw [statusWords, hflags]
  rfl

/-! ## Unassigned operation codes -/

/-- A code that no operation has selects none (R121). -/
theorem ofCode_eq_none {c : BitVec 8} (h : ∀ o : Opcode, o.code ≠ c) : Opcode.ofCode c = none :=
  Option.eq_none_iff_forall_ne_some.2 fun o ho => h o (code_of_ofCode ho)

/-- The reserved primitive kinds as numbers (R122). -/
theorem reservedPrimitive_iff (c : BitVec 8) : reservedPrimitive c = true ↔ 0x44 ≤ c.toNat ∧ c.toNat ≤ 0x4F := by
  simp [reservedPrimitive, BitVec.le_def]

/-- No operation has a reserved primitive kind as its code (R113, R122). -/
theorem reservedPrimitive_code (o : Opcode) : reservedPrimitive o.code = false := by cases o <;> rfl

/-- A code outside a list that holds every assigned and every reserved code is neither (R122). -/
theorem unassigned_of_notMem {l : List Nat} (hops : ∀ o : Opcode, o.code.toNat ∈ l)
    (hkinds : ∀ n ∈ List.range' 0x44 12, n ∈ l) {c : BitVec 8} (h : c.toNat ∉ l) :
    Opcode.ofCode c = none ∧ reservedPrimitive c = false := by
  refine ⟨ofCode_eq_none fun o ho => h (ho ▸ hops o), Bool.eq_false_iff.2 fun hr => h (hkinds _ ?_)⟩
  rw [reservedPrimitive_iff] at hr
  rw [List.mem_range'_1]
  omega

section

variable {w : Word} {rest : List Word}

theorem decode_unassigned (h : Opcode.ofCode (opcField w) = none) : decode (w :: rest) =
    if reservedPrimitive (opcField w) then .illegalPrimitive w rest else .illegalOpcode w rest := by
  rw [decode, h]

/-- An unassigned code faults with the code of its class, or is blocked in the fault state (R122, R284, R385). -/
theorem illegalCommand_answers (f : FaultCode) (w : Word) (s : State) : illegalCommand f w s =
    .next (if s.csr.fault.getLsbD 31 then s.afterBlock (opcField w) else s.afterFault (opcField w) (chField w) f.code) := by
  rw [apply_ite Host.Outcome.next]
  rfl

/-- A command word with an unassigned code is taken off the port alone (R124). -/
theorem step_unassigned {s : State} (hheld : s.held = none) (hsched : s.sched = []) (hcmd : s.cmd = w :: rest)
    (h : Opcode.ofCode (opcField w) = none) : step s = illegalCommand
      (if reservedPrimitive (opcField w) then .illegalPrimitive else .illegalOpcode) w { s with cmd := rest } := by
  rw [step_of_sched_nil hsched, processorTurn]
  simp only [hheld, hcmd, decode_unassigned h]
  cases reservedPrimitive (opcField w) <;> rfl

end

end Sys2Proof.Machine

namespace Sys2Proof

open Machine

/-- Settles O20: the two checks of `NOP`, in their order. -/
theorem nopCompletes : Obligations.NopCompletes := by
  intro s hs
  refine ⟨?completes, fun ch arg hch => ?channel, fun arg harg => ?argument⟩
  case completes => exact State.command_answers (ch := 0#8) hs pureChecks_pass rfl
  case channel => exact State.command_badChannel hs (notGlobal_of_ne hch) .nop ..
  case argument =>
    refine State.command_of_fault hs (f := .badArgument) ?_ ..
    simp [firstFault_cons, notGlobal, argUsed, harg]

/-- Settles O21: each index selects its case of `Csr.write`. -/
theorem csrWriteWritesRegister : Obligations.CsrWriteWritesRegister := by
  intro s v hs
  have hlow : (v.extractLsb' 0 8).toNat = v.toNat % 256 := BitVec.extractLsb'_toNat ..
  refine ⟨csrWrite_writes hs ?bsic, fun hmin hmax => ?timeouts, fun hcap => csrWrite_writes hs ?latency,
    fun hrange arg harg => csrWrite_faults hs ?illegalTimeout, fun hcap => csrWrite_faults hs ?illegalLatency,
    fun arg harg => csrWrite_faults hs (Csr.write_unwritable _ _ harg),
    fun ch arg hch => State.command_badChannel hs (notGlobal_of_ne hch) .csrWrite ..⟩
  case timeouts =>
    have hv : legalTimeout v = true := (legalTimeout_iff v).2 ⟨hmin, hmax⟩
    exact ⟨csrWrite_writes hs (if_pos hv), csrWrite_writes hs (if_pos hv), csrWrite_writes hs (if_pos hv)⟩
  case illegalTimeout =>
    have hv : ¬ legalTimeout v = true := fun h => by have := (legalTimeout_iff v).1 h; omega
    rcases harg with rfl | rfl | rfl <;> exact if_neg hv
  case illegalLatency => exact if_neg (by rw [hlow]; exact Nat.not_le.2 hcap)
  case latency =>
    rw [show 0xFF#32 = BitVec.ofNat 32 (2 ^ 8 - 1) from rfl, ← setWidth_lowField v (by decide)]
    exact if_pos (by rw [hlow]; exact hcap)
  case bsic =>
    rw [show 0x3F#32 = BitVec.ofNat 32 (2 ^ 6 - 1) from rfl, ← setWidth_lowField v (by decide)]
    rfl

/-- Settles O22: each index selects its case of `csrRead`; the failing check decides the fault. -/
theorem csrReadReadsRegister : Obligations.CsrReadReadsRegister := by
  intro s
  refine ⟨fun p hp => ?reads, fun arg harg => ?reserved, fun ch arg hch => ?channel⟩
  case reads =>
    refine csrRead_answers ?_
    simp only [List.mem_cons, List.not_mem_nil, or_false] at hp
    rcases hp with rfl | rfl | rfl | rfl | rfl | rfl | rfl | rfl | rfl | rfl | rfl | rfl | rfl | rfl <;> rfl
  case reserved =>
    refine csrRead_refuses (f := .badArgument) ?_
    rw [State.csrRead_reserved s harg]
    rfl
  case channel =>
    refine csrRead_refuses (f := .badChannel) ?_
    rw [notGlobal_of_ne hch, firstFault_fail]

/-- Settles O24: the context is written, and the status words of the reset context are 0. -/
theorem chDeconfigTearsDown : Obligations.ChDeconfigTearsDown := by
  intro s ch hs hch
  refine ⟨State.command_of_pass hs (statusChecks_pass hch) .., ?status,
    fun c hc => State.command_badChannel hs (noContext_of_ge hc) .chDeconfig ..⟩
  have hget : (s.withCtx ch Ctx.reset).getCtx ch = Ctx.reset := s.getCtx_setCtx_reset ch
  rw [chStatus_answers (s := s.withCtx ch Ctx.reset) hs hch, hget, statusWords_reset]

/-- Settles O25: the two packed words, field by field. -/
theorem chStatusReadsContext : Obligations.ChStatusReadsContext := by
  intro s ch hs hch c status recyclable
  obtain ⟨hkind, htn, hc0, hzeros, h3111, h3109, h3101, hprev, hoffset, hphy, hrec, hdec, hacc, henc, hrun⟩ :=
    statusFlags_fields c s.nowMs
  obtain ⟨hspeech, hfacch, hrach, htag⟩ := statusQueues_fields c
  have hstatus (T : Timer) : T.status s.nowMs = status T := T.status_eq s.nowMs
  have hrecyclable : c.dec.recyclable s.nowMs = recyclable := by
    simp only [Decoder.recyclable, Timer.expired_eq_status, hstatus, recyclable]
  have hactive : c.dec.active s.nowMs = (c.dec.accepting && !recyclable) := by rw [Decoder.active, hrecyclable]
  refine ⟨statusFlags c s.nowMs, statusQueues c, chStatus_answers hs hch, hkind, htn, hc0, hzeros, h3111.trans (hstatus _),
    h3109.trans (hstatus _), h3101.trans (hstatus _), hprev, hoffset.trans rfl, hphy, hrec.trans hrecyclable,
    hdec.trans hactive, hacc, henc, hrun, hspeech, hfacch, hrach, fun M htx => ?tx, fun M htx hrx => ?rx,
    fun htx hrx => ?untagged⟩
  case tx => rw [htag, statusTag, htx]
  case rx | untagged => rw [htag, statusTag, htx, hrx]

/-- Settles O10: an unassigned code is read alone, and its class gives the fault. -/
theorem unassignedOpcodesFault : Obligations.UnassignedOpcodesFault := by
  intro s w rest hheld hsched hcmd
  refine ⟨fun hrange => ?primitive, fun hcode => ?other⟩
  case primitive =>
    have hres : reservedPrimitive (opcField w) = true := (reservedPrimitive_iff _).2 hrange
    have hnone : Opcode.ofCode (opcField w) = none :=
      ofCode_eq_none fun o ho => by rw [← ho, reservedPrimitive_code] at hres; cases hres
    rw [step_unassigned hheld hsched hcmd hnone, hres]
    exact illegalCommand_answers ..
  case other =>
    obtain ⟨hnone, hres⟩ := unassigned_of_notMem (fun o => by cases o <;> decide) (by decide) (c := opcField w) hcode
    rw [step_unassigned hheld hsched hcmd hnone, hres]
    exact illegalCommand_answers ..

end Sys2Proof
end

section
/-! PROOFS. O35: `L2_DATA` sends a control frame as four bursts (R282, R283). O43: `IDLE_FILL` rolls the schedule once per mapped
frame (R293). -/

namespace Sys2Proof.Machine

/-! ## Rolling several times -/

/-- The state after `n` roll forwards of context `ch`, with their `NEXT_WTIME` records and the TX records sent on the way (R247,
R258). -/
def State.rolled (s : State) (ch : BitVec 8) (n : Nat) (sent : List (List Word)) : State :=
  { s with
    ctx := s.ctx.set ch.toNat ((Ctx.roll hardware)^[n] (s.getCtx ch))
    tx := s.tx ++ sent
    up := s.up ++ nextWtimesOf ch (s.getCtx ch) n }

theorem nextWtimesOf_succ (ch : BitVec 8) (c : Ctx) (n : Nat) : nextWtimesOf ch c (n + 1) =
    nextWtimesOf ch c n ++ [upRecord 0x15#8 ch [timeWord ((Ctx.roll hardware)^[n + 1] c).enc.nextWT]] := by
  rw [nextWtimesOf, List.range_succ, List.map_append]
  rfl

/-- A burst sent after others is stamped with the `nextWT` that as many roll forwards give (R247). -/
theorem txRecordsOf_append (ch : BitVec 8) (c : Ctx) (bs : List (BitVec 148)) (b : BitVec 148) :
    txRecordsOf ch c (bs ++ [b]) = txRecordsOf ch c bs ++
      [txRecord ch c.cfg.arfcn ((Ctx.roll hardware)^[bs.length] c).enc.nextWT b] := by
  simp [txRecordsOf, txRecord, List.zipIdx_append]

section

variable {s : State} {ch : BitVec 8}

@[simp] theorem State.rolled_zero (s : State) (ch : BitVec 8) : s.rolled ch 0 [] = s := by
  have hctx : s.ctx.set ch.toNat (s.getCtx ch) = s.ctx := congrArg State.ctx (s.setCtx_getCtx ch)
  simp [State.rolled, nextWtimesOf, hctx]

variable (hch : ch.toNat < s.ctx.length) (n : Nat) (sent : List (List Word))
include hch

theorem State.getCtx_rolled : (s.rolled ch n sent).getCtx ch = (Ctx.roll hardware)^[n] (s.getCtx ch) :=
  s.getCtx_setCtx_self _ hch

theorem State.rollForward_rolled : (s.rolled ch n sent).rollForward hardware ch = s.rolled ch (n + 1) sent := by
  rw [State.rollForward, State.getCtx_rolled hch, ← Function.iterate_succ_apply' (Ctx.roll hardware)]
  simp [State.rolled, State.setCtx, State.emitUp, nextWtimesOf_succ]

theorem State.sendBurst_rolled (b : BitVec 148) : (s.rolled ch n sent).sendBurst hardware ch b = s.rolled ch (n + 1)
    (sent ++ [txRecord ch (s.getCtx ch).cfg.arfcn ((Ctx.roll hardware)^[n] (s.getCtx ch)).enc.nextWT b]) := by
  rw [State.sendBurst, State.getCtx_rolled hch, Ctx.iterate_roll_cfg, ← State.rollForward_rolled hch]
  simp [State.emitTx, State.rolled]

/-- Bursts sent one after the other (R283). -/
theorem State.sendBursts_eq_rolled (bs : List (BitVec 148)) :
    s.sendBursts hardware ch bs = s.rolled ch bs.length (txRecordsOf ch (s.getCtx ch) bs) := by
  induction bs using List.reverseRecOn with
  | nil => exact (s.rolled_zero ch).symm
  | append_singleton bs b ih =>
    rw [txRecordsOf_append, List.length_append, List.length_singleton, ← State.sendBurst_rolled hch, ← ih]
    simp [State.sendBursts]

/-- Idle fill: a dummy burst before each roll on C0, none elsewhere (R293). -/
theorem State.idleSteps_eq_rolled : s.idleSteps hardware ch n = s.rolled ch n
    (if (s.getCtx ch).cfg.c0 then txRecordsOf ch (s.getCtx ch) (List.replicate n Config.dummyBurst) else []) := by
  induction n with
  | zero => simp [txRecordsOf]
  | succ n ih =>
    rw [State.idleSteps_succ, ih, State.idleStep, State.getCtx_rolled hch, Ctx.iterate_roll_cfg]
    split
    · rw [State.sendBurst_rolled hch, List.replicate_succ', txRecordsOf_append, List.length_replicate, hardware_dummyBurst]
    · exact State.rollForward_rolled hch ..

end

/-! ## Coding a control frame -/

/-- An uncoded control block is its three views (R45). -/
theorem eq_append_views (u : BitVec 228) : u = (slice u 0 184 ++ slice u 184 40) ++ slice u 224 4 := by
  have hinfo := slice_add u (a := 184) (b := 40) (by decide)
  have hblock := slice_add u (a := 224) (b := 4) (by decide)
  rw [← hinfo]
  exact (slice_full u).symm.trans hblock

/-- The uncoded block of a frame, view by view (R164, R172). -/
theorem xcchFill_eq_append (P : Config.Params) (eU : BitVec 228) (f : BitVec 184) :
    xcchFill P eU f = (lsb8msb f ++ ~~~remainder P.gFire (lsb8msb f)) ++ slice eU 224 4 := by
  rw [eq_append_views (xcchFill P eU f), slice_xcchFill_data, slice_xcchFill_parity, slice_xcchFill_tail]

/-- The context with a frame coded in its encoder's buffers (R283). -/
def Ctx.codeFrame (c : Ctx) (f : BitVec 184) : Ctx := { c with enc := c.enc.codeFrame hardware f }

/-- `xcchSend` after the wait, from a context just written (R283). -/
theorem State.sendFrame_setCtx {s : State} {ch : BitVec 8} (hch : ch.toNat < s.ctx.length) (c : Ctx) (f : BitVec 184) :
    (s.setCtx ch c).sendFrame hardware ch f
      = (s.setCtx ch (c.codeFrame f)).rolled ch 4 (txRecordsOf ch (c.codeFrame f)
          (controlBursts hardware (c.codeFrame f).enc.eI4 s.csr.bcc)) := by
  have hupd : (s.setCtx ch c).updEnc ch (fun e => e.codeFrame hardware f) = s.setCtx ch (c.codeFrame f) := by
    rw [State.updEnc, State.updCtx, s.getCtx_setCtx_self c hch]
    simp [State.setCtx, Ctx.codeFrame]
  rw [State.sendFrame, hupd, s.getCtx_setCtx_self c hch,
    State.sendBursts_eq_rolled (by simpa using hch), s.getCtx_setCtx_self _ hch]
  simp [controlBursts, Ctx.codeFrame]

end Sys2Proof.Machine

namespace Sys2Proof

open Machine

/-- Settles O35: past the wait, `sendFrame` codes the frame in the resynced context and rolls once for each burst. -/
theorem l2DataSendsFourBursts : Obligations.L2DataSendsFourBursts := by
  intro s ch frame hs hk hopen hwait
  have ⟨_, _, hrun⟩ := hs
  have hch : ch.toNat < s.ctx.length := State.lt_length_of_running hrun
  intro c1 d u rows c2
  have hcode : c1.codeFrame (unpackBits 184 frame) = c2 := by
    rw [Ctx.codeFrame, Encoder.codeFrame, xcchFill_eq_append]
    rfl
  have hbursts : controlBursts hardware c2.enc.eI4 s.csr.bcc
      = rows.toList.map fun row => normalBurst hardware row true true (s.csr.bsic.extractLsb' 0 3) := by
    rw [controlBursts, Csr.bcc]
  have hstatus : okStatus Opcode.l2Data.code 0 = 0x40000000#32 := rfl
  rw [l2Data_sends hs hk, xcchSend, if_pos hopen, State.waitToSend_done hwait, State.sendFrame_setCtx hch, hcode,
    State.complete_eq_answered, List.length_nil, hstatus, State.rolled, s.getCtx_setCtx_self c2 hch, State.setCtx_ctx,
    List.set_set, hbursts]
  rfl

/-- Settles O43: the loop of `idleSteps`, run once for each frame of the downlink mapping. -/
theorem idleFillRollsOnePeriod : Obligations.IdleFillRollsOnePeriod := by
  intro s ch M hs hM hk
  have ⟨hready, _, hrun⟩ := hs
  have hch : ch.toNat < s.ctx.length := State.lt_length_of_running hrun
  have hring : (s.getCtx ch).cfg.kind.hasRing = true := by rcases hk with hk | hk | hk <;> rw [hk] <;> rfl
  have hm : (s.getCtx ch).txM = M.forward.length := by rw [Ctx.txM, hM]; rfl
  refine (State.command_of_pass hready ?pass ..).trans ?rolls
  case pass =>
    rw [contextChecks hs, hring]
    rfl
  case rolls =>
    rw [hm, State.idleSteps_eq_rolled hch]
    rfl

end Sys2Proof
end

section
/-! PROOFS. O36: frames are queued (R282, R326, R327). O37: `L2_ESTABLISH` opens (R277, R279). O38: `L2_RELEASE` and `L2_ERROR`
close (R278, R280, R281). -/

namespace Sys2Proof.Machine

/-! ## Queues of a traffic channel -/

section

variable {s : State} {ch : BitVec 8} (hs : s.readyOn ch) (hk : (s.getCtx ch).cfg.kind = .tch)
include hs hk

/-- Of the checks of `L2_DATA` on a configured TCH context only the one on the queue is left (R282, R327). -/
theorem l2DataChecks_tch : firstFault [noContext hardware ch, argUsed 0#16, s.notRunning ch,
      (!(s.getCtx ch).cfg.kind.takesData, .wrongKind), (facchFull hardware (s.getCtx ch), .queueOverflow)]
    = if (s.getCtx ch).enc.active = true ∧ (s.getCtx ch).enc.facchQ.length = 8 then some .queueOverflow else none := by
  rw [contextChecks hs]
  simp [firstFault_cons, facchFull, hk, Kind.takesData]

/-- `L2_DATA` on a configured TCH context enqueues its frame where the queue has room (R282). -/
theorem l2Data_enqueues (hroom : (s.getCtx ch).enc.active = true → (s.getCtx ch).enc.facchQ.length ≠ 8) (frame : List Word) :
    exec (.l2Data ch 0#16 frame) s = facchEnqueue ch (unpackBits 184 frame) s := by
  refine (State.command_of_pass hs.1 ?_ ..).trans (if_pos hk)
  rw [l2DataChecks_tch hs hk, if_neg fun h => hroom h.1 h.2]

theorem l2Data_overflows (hopen : (s.getCtx ch).enc.active = true) (hfull : (s.getCtx ch).enc.facchQ.length = 8)
    (frame : List Word) : exec (.l2Data ch 0#16 frame) s = .next (s.afterFault 0x40#8 ch 0x08#8) := by
  refine State.command_of_fault hs.1 (f := .queueOverflow) ?_ ..
  rw [l2DataChecks_tch hs hk, if_pos ⟨hopen, hfull⟩]

/-- `TCH_SPEECH_PUSH` on an open TCH context queues its frame (R326). -/
theorem tchSpeechPush_queues (hopen : (s.getCtx ch).enc.active = true) (frame : List Word) :
    exec (.tchSpeechPush ch 0#16 frame) s = .next (State.answered
      (s.updEnc ch fun e => { e with speechQ := pushSpeech hardware e.speechQ (unpackBits 260 frame) }) 0x64000000#32 []) :=
  (State.command_of_pass hs.1 (beaconChecks_pass hs hk) ..).trans (if_pos hopen)

end

/-- A frame joins a speech queue with room (R326). -/
theorem pushSpeech_of_room {q : List (BitVec 260)} (h : q.length ≠ 16) (x : BitVec 260) : pushSpeech hardware q x = q ++ [x] := by
  rw [pushSpeech, hardware_speechQDepth, if_neg h]

/-- A frame pushes the oldest off a full speech queue (R326). -/
theorem pushSpeech_of_full {q : List (BitVec 260)} (h : q.length = 16) (x : BitVec 260) :
    pushSpeech hardware q x = q.tail ++ [x] := by
  rw [pushSpeech, hardware_speechQDepth, if_pos h, List.drop_one]

/-! ## Opening and closing -/

theorem Kind.hasEncoder_iff (k : Kind) : k.hasEncoder = true ↔ k ≠ .none ∧ k ≠ .rach := by cases k <;> decide

theorem Kind.hasTimers_eq (k : Kind) : k.hasTimers = (k == .xcch || k == .sacch || k == .tch) := by cases k <;> rfl

/-- The contexts with a decoder (R40, R244 item 7). -/
theorem Ctx.hasDecoder_iff (c : Ctx) : c.hasDecoder = true ↔
    c.cfg.kind = .rach ∨ c.cfg.kind = .tch ∨ ((c.cfg.kind = .xcch ∨ c.cfg.kind = .sacch) ∧ c.cfg.rxmap.isSome = true) := by
  cases h : c.cfg.kind <;> simp [Ctx.hasDecoder, h]

theorem argBit0_of_lt {arg : BitVec 16} (h : arg.toNat < 2) : argBit0 arg = decide (arg = 1#16) := by
  have harg : arg = 0#16 ∨ arg = 1#16 := by bv_omega
  rcases harg with rfl | rfl <;> rfl

/-- The encoder just opened, with its schedule seated on the first frame of the mapping (R250, R277). -/
theorem Ctx.openEnc_enc (c : Ctx) (t : Time) : (c.openEnc hardware t).enc =
    if c.cfg.kind = .tch then
      { (c.openedEnc.reseat hardware t).enc with
        offset := .zero, prevFACCH := false, curFACCH := false, facchQ := [], speechQ := [] }
    else (c.openedEnc.reseat hardware t).enc :=
  apply_ite Ctx.enc ..

/-- The decoder just opened: empty buffers, a RACH queue emptied, and the timers of a kind that has them (R277). -/
theorem Ctx.openDec_eq (c : Ctx) (ia : Bool) (ms : Word) (r : Csr) : (c.openDec ia ms r).dec =
    { c.dec with
      accepting := true, fer := 0
      dI4 := Vector.replicate 4 (Vector.replicate 114 erasure), dI8 := Vector.replicate 8 (Vector.replicate 114 erasure)
      dHl := Vector.replicate 8 erasure, dHu := Vector.replicate 8 erasure
      rssi := Vector.replicate 4 0, te := Vector.replicate 4 0, phyCnt := 0, phyNew := false
      rachQ := if c.cfg.kind = .rach then [] else c.dec.rachQ
      t3109 := if c.cfg.kind.hasTimers then .set ms r.t3109Ms else c.dec.t3109
      t3111 := if c.cfg.kind.hasTimers then c.dec.t3111.stop else c.dec.t3111
      t3101 :=
        if c.cfg.kind.hasTimers then if ia then .set ms r.t3101Ms else c.dec.t3101.stop else c.dec.t3101 } := by
  unfold Ctx.openDec
  by_cases hrach : c.cfg.kind = .rach
  · simp [hrach, Kind.hasTimers]
  · cases c.cfg.kind.hasTimers <;> simp [hrach]

/-- `closeEnc` in plain terms (R278). -/
theorem Ctx.closeEnc_eq (c : Ctx) : c.closeEnc =
    { c with enc := if c.cfg.kind ≠ .none ∧ c.cfg.kind ≠ .rach then { c.enc with active := false } else c.enc } := by
  rw [Ctx.closeEnc, if_congr (Kind.hasEncoder_iff _) rfl rfl]
  split <;> rfl

/-- `closeDec` in plain terms: a RACH decoder has no timers (R278, R280). -/
theorem Ctx.closeDec_eq (c : Ctx) (ms : Word) (r : Csr) : c.closeDec ms r =
    { c with dec :=
        if c.cfg.kind = .rach then { c.dec with accepting := false }
        else if c.cfg.kind = .tch ∨ ((c.cfg.kind = .xcch ∨ c.cfg.kind = .sacch) ∧ c.cfg.rxmap.isSome) then
          { c.dec with
            accepting := false, t3101 := c.dec.t3101.stop, t3109 := c.dec.t3109.stop, t3111 := .set ms r.t3111Ms }
        else c.dec } := by
  unfold Ctx.closeDec
  by_cases hrach : c.cfg.kind = .rach
  · simp [Ctx.hasDecoder, Kind.hasTimers, hrach]
  · have hdec := c.hasDecoder_iff.trans (or_iff_right hrach)
    rw [if_neg hrach, ← if_congr hdec rfl rfl]
    split
    · next hd =>
      have htimers : c.cfg.kind.hasTimers = true := by
        rcases hdec.1 hd with hk | ⟨hk | hk, -⟩ <;> rw [hk] <;> rfl
      rw [htimers]
      rfl
    · rfl

end Sys2Proof.Machine

namespace Sys2Proof

open Machine

/-- Settles O36: room, a full queue and a closed encoder are the branches of the two queueing commands. -/
theorem framesAreQueued : Obligations.FramesAreQueued := by
  intro s ch frame hs hk c
  refine ⟨fun hopen hroom => ?facch, fun hopen hfull => l2Data_overflows hs hk hopen hfull frame, fun hclosed => ?facchClosed,
    fun hopen hroom => ?speech, fun hopen hfull => ?speechFull, fun hclosed => ?speechClosed⟩
  case facch =>
    rw [l2Data_enqueues hs hk fun _ => hroom.ne, facchEnqueue, if_pos hopen]
    rfl
  case facchClosed =>
    rw [l2Data_enqueues hs hk fun hopen => absurd (hclosed.symm.trans hopen) (by decide)]
    exact sender_discards hclosed ..
  case speech =>
    rw [tchSpeechPush_queues hs hk hopen, ← pushSpeech_of_room hroom]
    rfl
  case speechFull =>
    rw [tchSpeechPush_queues hs hk hopen, ← pushSpeech_of_full hfull]
    rfl
  case speechClosed =>
    exact (State.command_of_pass hs.1 (beaconChecks_pass hs hk) ..).trans (sender_discards hclosed ..)

/-- Settles O37: the encoder and the decoder of `open`, each where the kind has it. -/
theorem l2EstablishOpens : Obligations.L2EstablishOpens := by
  intro s ch arg hs harg c k timed enc1 enc2 dec2
  have ⟨hready, hch, hrun⟩ := hs
  have hpass : firstFault [noContext hardware ch, (argAbove arg 1, .badArgument), s.notRunning ch] = none := by
    simp [firstFault_cons, noContext, argAbove_of_lt (n := 1) harg, State.notRunning, hrun, Nat.not_le.2 hch]
  have hreseat : (c.openedEnc.reseat hardware s.nowTime).enc = enc1 := by
    rcases hM : c.cfg.txmap with _ | M
    · rw [Ctx.reseat_none (c := c.openedEnc) hardware hM]
      simp only [enc1, hM]
      rfl
    · rw [Ctx.reseat_some (c := c.openedEnc) hardware hM]
      simp [enc1, hM, frameMapping, Ctx.openedEnc]
  have henc : (c.open hardware (argBit0 arg) s.nowTime s.nowMs s.csr).enc = if k ≠ .none ∧ k ≠ .rach then enc2 else c.enc := by
    rw [Ctx.open_enc, Ctx.openEnc_enc, hreseat]
    exact if_congr (Kind.hasEncoder_iff k) rfl rfl
  have hdec2 : (c.openDec (argBit0 arg) s.nowMs s.csr).dec = dec2 := by
    have htimed : c.cfg.kind.hasTimers = timed := Kind.hasTimers_eq k
    simp only [Ctx.openDec_eq, htimed, argBit0_of_lt harg, decide_eq_true_eq]
    rfl
  have hdec : (c.open hardware (argBit0 arg) s.nowTime s.nowMs s.csr).dec =
      if k = .rach ∨ k = .tch ∨ ((k = .xcch ∨ k = .sacch) ∧ c.cfg.rxmap.isSome) then dec2 else c.dec := by
    rw [Ctx.open_dec, hdec2]
    exact if_congr c.hasDecoder_iff rfl rfl
  refine (State.command_of_pass hready hpass ..).trans ?_
  rw [← henc, ← hdec, ← Ctx.open_cfg hardware c (argBit0 arg) s.nowTime s.nowMs s.csr]
  rfl

/-- Settles O38: the encoder of `closeEnc` and the decoder of `closeDec`. -/
theorem l2ReleaseAndErrorClose : Obligations.L2ReleaseAndErrorClose := by
  intro s ch hs c k enc1 dec1
  have hclose : c.closeEnc.closeDec s.nowMs s.csr = { cfg := c.cfg, enc := enc1, dec := dec1 } := by
    rw [Ctx.closeDec_eq, Ctx.closeEnc_eq]
    rfl
  refine ⟨(State.command_of_pass hs.1 (contextChecks hs []) ..).trans ?release,
    (State.command_of_pass hs.1 (contextChecks hs []) ..).trans ?error⟩
  case release =>
    rw [← hclose]
    rfl
  case error =>
    rw [← show c.closeEnc = { c with enc := enc1 } from c.closeEnc_eq]
    rfl

end Sys2Proof
end

section
/-! PROOFS. O40: `RX_BURST` decodes control blocks (R285, R290). O42: `RACH_SERVICE` serves the oldest queued burst (R288, R289). -/

namespace Sys2Proof.Machine

/-! ## Reading a control block -/

/-- Deinterleaving a control block consumes every cell of its four rows, as `456 = 4 * 114` (R211). -/
theorem eraseConsumed_four (rows : Vector (Vector Soft 114) 4) :
    eraseConsumed 0 rows = Vector.replicate 4 (Vector.replicate 114 erasure) := by
  have hcell {r j : Nat} (hr : r < 4) (hj : j < 114) : ∃ k < 456, cellOf 4 0 k = (r, j) := by
    -- row `r` of four takes the coded bits of rows `r` and `r + 4` of eight, one at each parity of the place
    obtain ⟨k, hk, hrow⟩ := (exists_cellOf_iff (off := 0) (r := r + 4 * (j % 2)) (.inl rfl) (by omega) hj).2 (by omega)
    simp only [cellOf, Prod.mk.injEq] at hrow ⊢
    exact ⟨k, hk, by omega, hrow.2⟩
  refine Vector.ext fun r hr => Vector.ext fun j hj => ?_
  obtain ⟨k, hk, hname⟩ := hcell hr hj
  rw [← softCell_of_lt _ hr hj, ← hname, softCell_eraseConsumed_cellOf 0 (.inl rfl) _ hk]
  simp

/-- The received block with its parity inverted, view by view (R164). -/
theorem invertParity_eq_append (u : BitVec 228) :
    invertParity u = (slice u 0 184 ++ ~~~slice u 184 40) ++ slice u 224 4 := by
  have htail : slice (invertParity u) 224 4 = slice u 224 4 := slice_writeView_disjoint _ _ (by decide) (by decide)
  rw [eq_append_views (invertParity u), slice_invertParity_data, slice_invertParity_parity, htail]

/-- A valid block: the parity inverted, then the data rewritten in place, view by view (R164, R285). -/
theorem undoD_invertParity (u : BitVec 228) :
    undoD (invertParity u) = (lsb8msb (slice u 0 184) ++ ~~~slice u 184 40) ++ slice u 224 4 := by
  have hdata : slice (undoD (invertParity u)) 0 184 = lsb8msb (slice u 0 184) := by
    rw [undoD, slice_writeView_self _ _ (by decide), slice_invertParity_data]
  have hparity : slice (undoD (invertParity u)) 184 40 = ~~~slice u 184 40 := by
    rw [undoD, slice_writeView_disjoint _ _ (by decide) (by decide), slice_invertParity_parity]
  have htail : slice (undoD (invertParity u)) 224 4 = slice u 224 4 := by
    rw [undoD, slice_writeView_disjoint _ _ (by decide) (by decide), invertParity,
      slice_writeView_disjoint _ _ (by decide) (by decide)]
  rw [eq_append_views (undoD (invertParity u)), hdata, hparity, htail]

/-- The validity test of a received block in terms of the block as it was decoded (R164). -/
theorem xcchValid_invertParity (P : Config.Params) (u : BitVec 228) :
    xcchValid P (invertParity u) = (syndrome P.gFire (slice u 0 184 ++ ~~~slice u 184 40) == 0#40) := by
  rw [xcchValid, slice_add (a := 184) (b := 40) _ (by decide), slice_invertParity_data, slice_invertParity_parity]

/-- The decoder with the coded block read out of its rows, which are erased (R211, R285). -/
def Decoder.readBlock (d : Decoder) : Decoder :=
  { d with dC := deinterleave 0 d.dI4, dI4 := Vector.replicate 4 (Vector.replicate 114 erasure) }

/-- The block read is the decoded one with its parity inverted (R164). -/
theorem Decoder.readBlock_block (d : Decoder) :
    d.readBlock.block hardware = invertParity (viterbi 228 (deinterleave 0 d.dI4)) := by
  rw [Decoder.block, hardware_vd, Decoder.readBlock]

/-- The decoder with the control block `u` taken as valid or as invalid (R285, R330). -/
def Decoder.withBlock (d : Decoder) (u : BitVec 228) (ok : Bool) (ms : Word) (r : Csr) : Decoder :=
  { d with
    dU := ((if ok then lsb8msb (slice u 0 184) else slice u 0 184) ++ ~~~slice u 184 40) ++ slice u 224 4
    fer := if ok then ferGood hardware d.fer else ferBad hardware d.fer
    t3101 := if ok then d.t3101.stop else d.t3101
    t3109 := if ok then .set ms r.t3109Ms else d.t3109 }

/-- Decoding a block takes it as its validity test says (R285). -/
theorem Decoder.decodeBlock_eq {d : Decoder} {u : BitVec 228} (hu : d.block hardware = invertParity u) (ms : Word) (r : Csr) :
    d.decodeBlock hardware ms r = d.withBlock u (xcchValid hardware (invertParity u)) ms r := by
  rw [Decoder.decodeBlock, hu]
  split
  · next hvalid =>
    rw [hvalid, undoD_invertParity]
    rfl
  · next hinvalid =>
    rw [Bool.eq_false_of_not_eq_true hinvalid, invertParity_eq_append]
    rfl

/-! ## Records -/

theorem frameRecord_eq (ch : BitVec 8) (t : Time) (d : Decoder) : frameRecord ch t d =
    ((0x10#8 ++ ch) ++ 9#16) :: timeWord t :: d.meas :: d.fer :: packBits (slice d.dU 0 184) := by
  rw [frameRecord, upRecord, List.length_cons, List.length_cons, List.length_cons, length_packBits]
  rfl

theorem sacchRecord_eq (ch : BitVec 8) (t : Time) (d : Decoder) : sacchRecord ch t d =
    ((0x11#8 ++ ch) ++ 10#16) :: timeWord t :: d.meas :: d.fer
      :: (((0#19 ++ d.actualMSPower) ++ 0#1) ++ d.actualMSTiming) :: packBits (slice d.dU 16 168) := by
  rw [sacchRecord, upRecord, List.length_cons, List.length_cons, List.length_cons, List.length_cons, length_packBits]
  rfl

section

variable {s : State} {ch : BitVec 8}

/-! ## Receiving a control burst -/

/-- A decoder updated in a context just written. -/
theorem State.updDec_setCtx (hch : ch.toNat < s.ctx.length) (c : Ctx) (f : Decoder → Decoder) :
    (s.setCtx ch c).updDec ch f = s.setCtx ch { c with dec := f c.dec } := by
  rw [State.updDec, State.updCtx, s.getCtx_setCtx_self c hch]
  simp [State.setCtx]

/-- The end of a control block, from a context just written (R285). -/
theorem State.xcchBlockEnd_setCtx (hch : ch.toNat < s.ctx.length) (c : Ctx) (t : Time) {d : Decoder}
    (hd : c.dec.readBlock.decodeBlock hardware s.nowMs s.csr = d) :
    (s.setCtx ch c).xcchBlockEnd hardware ch t =
      if xcchValid hardware (c.dec.readBlock.block hardware) then
        if c.cfg.kind = .sacch then
          (s.setCtx ch { c with dec := d.sacchHeader }).emitUp (sacchRecord ch t d.sacchHeader)
        else (s.setCtx ch { c with dec := d }).emitUp (frameRecord ch t d)
      else s.setCtx ch { c with dec := d } := by
  rw [← hd]
  simp only [State.xcchBlockEnd, s.getCtx_setCtx_self c hch, State.updDec_setCtx hch, eraseConsumed_four]
  rfl

/-- A burst on a control channel is stored in its row, and the fourth row ends the block (R285). -/
theorem State.acceptBurst_control {M : Mapping} (hM : (s.getCtx ch).cfg.rxmap = some M)
    (hk : (s.getCtx ch).cfg.kind = .xcch ∨ (s.getCtx ch).cfg.kind = .sacch) (b : RxBurst) {B : Nat}
    (hB : (reverse M b.time.fn % 4).toNat = B) {d : Decoder}
    (hd : (s.getCtx ch).dec.storeRow4 B b = d) :
    s.acceptBurst hardware ch b =
      if B = 3 then (s.setCtx ch { s.getCtx ch with dec := d }).xcchBlockEnd hardware ch b.time
      else s.setCtx ch { s.getCtx ch with dec := d } := by
  have hindex : burstIndex (s.getCtx ch) b.time.fn 4 = B := by rw [burstIndex, hM, ← hB]; rfl
  have hreceive : s.acceptBurst hardware ch b = s.xcchReceive hardware ch b := by
    rcases hk with hk | hk <;> rw [State.acceptBurst, hk]
  rw [hreceive, State.xcchReceive, hindex, ← hd]
  rfl

/-! ## Serving a RACH burst -/

section

variable (hs : s.readyOn ch) (hk : (s.getCtx ch).cfg.kind = .rach)
include hs hk

theorem rachChecks_pass :
    firstFault [noContext hardware ch, argUsed 0#16, s.notRunning ch, ((s.getCtx ch).cfg.kind != .rach, .wrongKind)] = none := by
  rw [contextChecks hs, hk]
  rfl

/-- `RACH_SERVICE` on an empty queue (R288). -/
theorem rachService_idles (hq : (s.getCtx ch).dec.rachQ = []) :
    exec (.rachService ch 0#16) s = .next (s.answered 0x51000001#32 [0#32]) := by
  refine (State.command_of_pass hs.1 (rachChecks_pass hs hk) ..).trans ?_
  rw [hq, State.complete_eq_answered, List.length_singleton]
  rfl

/-- `RACH_SERVICE` takes the oldest burst (R288). -/
theorem rachService_serves {b : RxBurst} {q : List RxBurst} (hq : (s.getCtx ch).dec.rachQ = b :: q) :
    exec (.rachService ch 0#16) s = .next (State.answered
      ((s.updDec ch fun d => { d with rachQ := q }).rachDecode hardware ch b) 0x51000001#32
      [rachServiceWord hardware b (rachValid hardware b s.csr.bsicField)]) := by
  refine (State.command_of_pass hs.1 (rachChecks_pass hs hk) ..).trans ?_
  rw [hq]
  simp only [State.complete_eq_answered, List.length_singleton]
  rfl

end

/-- A RACH burst decoded in a context just written (R289). -/
theorem State.rachDecode_setCtx (hch : ch.toNat < s.ctx.length) (c : Ctx) (b : RxBurst) :
    (s.setCtx ch c).rachDecode hardware ch b =
      if rachValid hardware b s.csr.bsicField then
        (s.setCtx ch { c with dec := c.dec.countGood hardware }).emitUp
          (rachRecord hardware ch b (c.dec.countGood hardware).fer)
      else s.setCtx ch { c with dec := c.dec.countBad hardware } := by
  rw [State.rachDecode, State.updDec_setCtx hch, State.updDec_setCtx hch, s.getCtx_setCtx_self c hch]
  rfl

end

/-- The timing advance of a burst that came early is 0, of any other the rounded error up to 63 (R289). -/
theorem timingAdvance_eq (te : BitVec 16) :
    timingAdvance te = if te.toInt ≤ 0 then 0 else min ((te.toNat + 128) / 256) 63 := by
  unfold timingAdvance
  split
  · next hearly =>
    have hsign : te.toInt.sign * ((te.toInt.natAbs + 128) / 256 : Nat) ≤ 0 :=
      mul_nonpos_of_nonpos_of_nonneg (Int.sign_nonpos_iff.2 hearly) (Int.natCast_nonneg _)
    simp only [max_eq_right hsign]
    rfl
  · next hlate =>
    have hpos : 0 < te.toInt := not_le.1 hlate
    have habs : te.toInt.natAbs = te.toNat := by
      have hmsb : te.msb = false := by
        rw [BitVec.msb_eq_toInt]
        exact decide_eq_false hpos.le.not_gt
      rw [BitVec.toInt_eq_toNat_of_msb hmsb, Int.natAbs_natCast]
    simp only [Int.sign_eq_one_of_pos hpos, habs]
    omega

end Sys2Proof.Machine

namespace Sys2Proof

open Machine

/-- Settles O40: the burst is stored, and at the end of the block the validity test decides what is kept and delivered. -/
theorem rxBurstDecodesControlBlock : Obligations.RxBurstDecodesControlBlock := by
  intro s ch time meas sym M hs htime hsym hM hk hdemux hopen c B d1 u ok d2 d3
  have ⟨_, _, hrun⟩ := hs
  have hch : ch.toNat < s.ctx.length := State.lt_length_of_running hrun
  have hdec : c.hasDecoder = true := c.hasDecoder_iff.2 (.inr (.inr ⟨hk, Option.isSome_iff_exists.2 ⟨M, hM⟩⟩))
  have hvalid : xcchValid hardware (invertParity u) = ok := by rw [xcchValid_invertParity, hardware_gFire]
  have hblock : d1.readBlock.decodeBlock hardware s.nowMs s.csr = d2 := by
    rw [Decoder.decodeBlock_eq d1.readBlock_block, hvalid]
    rfl
  have hstored : c.dec.storeRow4 B (rxBurstOf time meas sym) = d1 := rfl
  have hend := State.xcchBlockEnd_setCtx hch { c with dec := d1 } (timeOf time) hblock
  rw [d1.readBlock_block, hvalid] at hend
  have haccept : s.acceptBurst hardware ch (rxBurstOf time meas sym) =
      if B = 3 then (s.setCtx ch { c with dec := d1 }).xcchBlockEnd hardware ch (timeOf time)
      else s.setCtx ch { c with dec := d1 } := State.acceptBurst_control hM hk _ rfl hstored
  rw [rxBurst_accepted hs htime hsym hdec meas hdemux hopen, haccept, hend]
  by_cases hB : B = 3
  · rw [if_pos hB, if_neg (not_not.2 hB)]
    by_cases hok : ok = true
    · have hnot : ¬ ok = false := fun h => Bool.false_ne_true (h.symm.trans hok)
      rw [if_pos hok, if_neg hnot]
      have hfer : d2.fer = ferGood hardware c.dec.fer := if_pos hok
      split
      · rw [sacchRecord_eq, ← hfer]
        rfl
      · rw [frameRecord_eq, ← hfer]
        rfl
    · rw [if_neg hok, if_pos (Bool.eq_false_of_not_eq_true hok)]
      rfl
  · rw [if_neg hB, if_pos hB]
    rfl

/-- Settles O42: the parts of `rachDecode` in plain terms. -/
theorem rachServiceServesOldestBurst : Obligations.RachServiceServesOldestBurst := by
  intro s ch hs hk c
  have ⟨_, _, hrun⟩ := hs
  have hch : ch.toNat < s.ctx.length := State.lt_length_of_running hrun
  refine ⟨rachService_idles hs hk, ?serves⟩
  intro b q hq u valid ra ta
  have hta : BitVec.ofNat 8 (timingAdvance b.te) = ta := by
    rw [timingAdvance_eq]
    exact apply_ite ..
  have hvalid : rachValid hardware b s.csr.bsicField = valid := rfl
  have htake : s.updDec ch (fun d => { d with rachQ := q }) = s.setCtx ch { c with dec := { c.dec with rachQ := q } } := rfl
  rw [rachService_serves hs hk hq, htake, State.rachDecode_setCtx hch, hvalid, ← hta]
  split
  · next hgood =>
    rw [hgood]
    rfl
  · next hbad =>
    rw [Bool.eq_false_of_not_eq_true hbad]
    rfl

end Sys2Proof
end

section
/-! PROOFS. O34: the TCH speech commands answer the coded block and the decoded speech, bit by bit (R320, R321, R331, R332). -/

namespace Sys2Proof.Machine

/-! ## Coding speech -/

section

variable (P : Config.Params)

/-- Bit `i` of `TCHD` is the speech bit that `TCH_ORDER` names (R320). -/
theorem getMsbD_tchReorder (s : BitVec 260) (i : Fin 260) : (tchReorder P s).getMsbD i = s.getMsbD (P.tchOrder i) := by
  simp [tchReorder, tchOrder, getMsbD_bitsOf]

/-- The speech bit that `TCH_ORDER` names for `i` is bit `i` of `TCHD` (R321). -/
theorem getMsbD_tchUnorder (d : BitVec 260) (i : Fin 260) : (tchUnorder P d).getMsbD (P.tchOrder i) = d.getMsbD i := by
  simp [tchUnorder, tchOrderInv, getMsbD_bitsOf]

/-- The even bits of class 1 stand at the front of `TCHU`, the odd ones at its back, last first (R320). -/
theorem getMsbD_tchFold (d : BitVec 260) {k : Nat} (hk : k ≤ 90) :
    (tchFold P d).getMsbD k = d.getMsbD (2 * k) ∧ (tchFold P d).getMsbD (184 - k) = d.getMsbD (2 * k + 1) := by
  have hback : 184 - (184 - k) = k := by omega
  rw [tchFold, getMsbD_bitsOf, getMsbD_bitsOf, if_pos (by omega), if_neg (by omega), if_neg (by omega), if_pos (by omega),
    hback, decide_eq_true (show k < 189 by omega), decide_eq_true (show 184 - k < 189 by omega)]
  exact ⟨Bool.true_and _, Bool.true_and _⟩

end

/-- The class-1 bits of `TCHD` are read back from the two ends of `TCHU` (R321). -/
theorem getMsbD_tchUnfold_class1 (u : BitVec 189) (q : Vector Soft 456) {k : Nat} (hk : k ≤ 90) :
    (tchUnfold u q).getMsbD (2 * k) = u.getMsbD k ∧ (tchUnfold u q).getMsbD (2 * k + 1) = u.getMsbD (184 - k) := by
  have heven : 2 * k / 2 = k := by omega
  have hodd : (2 * k + 1) / 2 = k := by omega
  rw [tchUnfold, getMsbD_bitsOf, getMsbD_bitsOf, if_pos (by omega), if_pos (by omega), if_pos (by omega), if_neg (by omega),
    heven, hodd, decide_eq_true (show 2 * k < 260 by omega), decide_eq_true (show 2 * k + 1 < 260 by omega)]
  exact ⟨Bool.true_and _, Bool.true_and _⟩

/-- The class-2 bits of `TCHD` are the hard decisions on the last 78 symbols (R321). -/
theorem getMsbD_tchUnfold_class2 (u : BitVec 189) (q : Vector Soft 456) {i : Nat} (hi : i < 78) :
    (tchUnfold u q).getMsbD (182 + i) = hard (q.getD (378 + i) 0) := by
  rw [tchUnfold, getMsbD_bitsOf, if_neg (by omega), Nat.add_sub_cancel_left, decide_eq_true (show 182 + i < 260 by omega)]
  exact Bool.true_and _

/-- The first 378 bits of a coded block are the coded class 1 (R320). -/
theorem getMsbD_tchCoded_class1 (u : BitVec 189) (d : BitVec 260) {i : Nat} (hi : i < 378) :
    (tchCoded u d).getMsbD i = (convEncode u).getMsbD i := by
  have hfront : ¬ 2 * 189 ≤ i := by omega
  rw [tchCoded, BitVec.getMsbD_append, if_neg hfront]

/-- The last 78 bits of a coded block are the plain class 2 (R320). -/
theorem getMsbD_tchCoded_class2 (u : BitVec 189) (d : BitVec 260) {i : Nat} (hi : i < 78) :
    (tchCoded u d).getMsbD (378 + i) = d.getMsbD (182 + i) := by
  have hback : 2 * 189 ≤ 378 + i := by omega
  rw [tchCoded, BitVec.getMsbD_append, if_pos hback, Nat.add_sub_cancel_left, getMsbD_slice _ (by decide),
    decide_eq_true hi, Bool.true_and]

/-- The class-1 symbols of a soft block read from payload words (R115, R321). -/
theorem class1_unpackSoft (soft : List Word) :
    (vecOf 378 fun i => (unpackSoft 456 soft).getD i 0) = vecOf 378 (wordSoft soft) := by
  refine Vector.ext fun i hi => ?_
  rw [getElem_vecOf, getElem_vecOf, getD_unpackSoft (by omega)]

section

variable (q : Vector Soft 456)

theorem tchDecode_dTD : (tchDecode hardware q).dTD = tchUnfold (tchDecode hardware q).dTU q := by
  simp only [tchDecode]

/-- The parity test of a decoded speech block, with the class-1A generator of this hardware (R166, R321). -/
theorem tchDecode_parityOK : (tchDecode hardware q).parityOK =
    decide (slice (tchDecode hardware q).dTU 91 3 = ~~~remainder 0x3#3 (slice (tchDecode hardware q).dTD 0 50)) := by
  simp only [tchDecode, tchParity, hardware_gTch, beq_eq_decide]

theorem tchDecode_tailOK : (tchDecode hardware q).tailOK = decide (slice (tchDecode hardware q).dTU 185 4 = 0#4) := by
  simp only [tchDecode, beq_eq_decide]

end

/-- `TCHU` of a soft block read from payload words (R321). -/
theorem tchDecode_unpackSoft_dTU (soft : List Word) :
    (tchDecode hardware (unpackSoft 456 soft)).dTU = viterbi 189 (vecOf 378 (wordSoft soft)) := by
  simp only [tchDecode, hardware_vd, class1_unpackSoft]

/-- The flag word of `TCH_SPEECH_DECODE`: the three flags in its low bits, zeros above (R332). -/
theorem tchDecodeWords_flags (t : TchDecoded) : ∃ w : Word, tchDecodeWords t = w :: packBits t.s ∧
    w.getLsbD 0 = t.good ∧ w.getLsbD 1 = t.parityOK ∧ w.getLsbD 2 = t.tailOK ∧ w.extractLsb' 3 29 = 0#29 := by
  refine ⟨_, rfl, ?good, ?parityOK, ?tailOK, ?zeros⟩
  case good | parityOK | tailOK =>
    simp only [BitVec.getLsbD_append]
    simp
  case zeros =>
    rw [BitVec.extractLsb'_append_eq_of_le (by decide), BitVec.extractLsb'_append_eq_of_le (by decide),
      BitVec.extractLsb'_append_eq_of_le (by decide)]
    rfl

/-! ## The speech commands -/

theorem tchSpeechEncode_answers {s : State} (hs : s.ready) (frame : List Word) :
    exec (.tchSpeechEncode 0#8 0#16 frame) s
      = .next (s.answered 0x3800000F#32 (packBits (tchEncode hardware (unpackBits 260 frame)))) :=
  State.command_answers (ch := 0#8) hs pureChecks_pass (by rw [length_packBits]; rfl)

theorem tchSpeechDecode_answers {s : State} (hs : s.ready) {soft : List Word} (hsoft : softPayloadLegal 456 soft = true) :
    exec (.tchSpeechDecode 0#8 0#16 soft) s
      = .next (s.answered 0x3900000A#32 (tchDecodeWords (tchDecode hardware (unpackSoft 456 soft)))) := by
  refine State.command_answers hs ?_ ?_
  · rw [legalSoft_unpackSoft, hsoft]; rfl
  · rw [tchDecodeWords, List.length_cons, length_packBits]; rfl

end Sys2Proof.Machine

namespace Sys2Proof

open Machine

/-- Settles O34: the packed answers are read back as the coded block and the speech bits, whose parts the lemmas on reordering,
folding and coding give. -/
theorem tchSpeechCommandsAnswer : Obligations.TchSpeechCommandsAnswer := by
  intro s hs
  constructor
  · intro frame
    let d := tchReorder hardware (unpackBits 260 frame)
    refine ⟨d, tchFold hardware d, _, tchSpeechEncode_answers hs frame, length_packBits _, fun i => ?order,
      fun k hk => getMsbD_tchFold hardware d hk, slice_tchFold_parity hardware d, slice_tchFold_tail hardware d,
      fun i hi => ?class1, fun i hi => ?class2, fun i hi => ?padding⟩
    case order => rw [getMsbD_tchReorder, getMsbD_unpackBits_eq_wordBit (Fin.isLt _), hardware_tchOrder]
    case class1 => exact (wordBit_packBits _ _).trans (getMsbD_tchCoded_class1 _ _ hi)
    case class2 => exact (wordBit_packBits _ _).trans (getMsbD_tchCoded_class2 _ _ hi)
    case padding => rw [wordBit_packBits, BitVec.getMsbD_of_ge _ _ hi]
  · intro soft hsoft u
    obtain ⟨w, hwords, hgood, hparity, htail, hzeros⟩ := tchDecodeWords_flags (tchDecode hardware (unpackSoft 456 soft))
    have hexec := tchSpeechDecode_answers hs hsoft
    have hu := tchDecode_unpackSoft_dTU soft
    rw [hwords] at hexec
    rw [tchDecode_parityOK, hu] at hparity
    rw [tchDecode_tailOK, hu] at htail
    refine ⟨(tchDecode hardware (unpackSoft 456 soft)).dTD, _, w, hexec, fun k hk => ?class1, fun i hi => ?class2,
      fun i => getMsbD_tchUnorder hardware _ i, hparity, htail, hgood.trans ?good, hzeros⟩
    case class1 => rw [tchDecode_dTD, hu]; exact getMsbD_tchUnfold_class1 _ _ hk
    case class2 => rw [tchDecode_dTD, getMsbD_tchUnfold_class2 _ _ hi, getD_unpackSoft (by omega), hard]
    case good => rw [hparity, htail, TchDecoded.good, tchDecode_parityOK, tchDecode_tailOK, hu]

end Sys2Proof
end

section
/-! PROOFS. O41: `RX_BURST` decodes traffic blocks (R328 to R330, R333 to R335). -/

namespace Sys2Proof.Machine

/-! ## Reading a traffic block -/

/-- The decoder with the coded block at offset `o` read out of its rows, whose cells are erased (R215, R329). -/
def Decoder.readBlockAt (d : Decoder) (o : Nat) : Decoder :=
  { d with dC := deinterleave o d.dI8, dI8 := eraseConsumed o d.dI8 }

theorem Decoder.readBlockAt_block (d : Decoder) (o : Nat) :
    (d.readBlockAt o).block hardware = invertParity (viterbi 228 (deinterleave o d.dI8)) := by
  rw [Decoder.block, hardware_vd, Decoder.readBlockAt]

/-- The decoder with the speech block `x` taken as good or as bad (R330). -/
def Decoder.withSpeech (d : Decoder) (x : TchDecoded) (good : Bool) (ms : Word) (r : Csr) : Decoder :=
  { d with
    dTU := x.dTU, dTD := x.dTD, prevGood := if good then x.s else d.prevGood
    fer := if good then ferGood hardware d.fer else ferBad hardware d.fer
    t3101 := if good then d.t3101.stop else d.t3101
    t3109 := if good then .set ms r.t3109Ms else d.t3109 }

/-- Decoding a speech block takes it as its parity and tail say (R330). -/
theorem Decoder.decodeSpeech_eq (d : Decoder) (ms : Word) (r : Csr) :
    d.decodeSpeech hardware ms r = d.withSpeech (tchDecode hardware d.dC) (tchDecode hardware d.dC).good ms r := by
  rw [Decoder.decodeSpeech]
  generalize tchDecode hardware d.dC = x
  cases x.good <;> simp [Decoder.withSpeech, Decoder.goodFrame, Decoder.countGood, Decoder.countBad]

/-! ## Stealing flags -/

/-- The eight soft stealing flags of the block at offset `o`, summed: `Hu` of its first four rows, `Hl` of the others (R334). -/
def stealingSum (o : Nat) (hl hu : Vector Soft 8) : Nat :=
  (hu.getD o 0).toNat + (hu.getD (o + 1) 0).toNat + (hu.getD (o + 2) 0).toNat + (hu.getD (o + 3) 0).toNat
    + (hl.getD (4 - o) 0).toNat + (hl.getD (5 - o) 0).toNat + (hl.getD (6 - o) 0).toNat + (hl.getD (7 - o) 0).toNat

/-- A block is stolen when the sum of its flags is above eight erasures (R334). -/
theorem facchMajority_eq (o : Offset) (hl hu : Vector Soft 8) :
    facchMajority o.toNat hl hu = decide (1016 < stealingSum o.toNat hl hu) := by
  cases o <;> simp [facchMajority, stealingSum, Offset.toNat, List.range_succ, add_assoc]

/-- The burst index 3 ends the block at offset 4, the index 7 the one at offset 0 (R329). -/
theorem toNat_endOffset (B : Nat) : (endOffset B).toNat = if B = 3 then 4 else 0 := apply_ite Offset.toNat ..

/-! ## Records -/

theorem tchBadRecord_eq (ch : BitVec 8) (t : Time) (d : Decoder) : tchBadRecord ch t d =
    ((0x13#8 ++ ch) ++ 12#16) :: timeWord t :: d.meas :: d.fer :: packBits d.prevGood := by
  rw [tchBadRecord, upRecord, List.length_cons, List.length_cons, List.length_cons, length_packBits]
  rfl

theorem tchSpeechRecord_eq (ch : BitVec 8) (t : Time) (d : Decoder) (x : BitVec 260) : tchSpeechRecord ch t d x =
    ((0x12#8 ++ ch) ++ 12#16) :: timeWord t :: d.meas :: d.fer :: packBits x := by
  rw [tchSpeechRecord, upRecord, List.length_cons, List.length_cons, List.length_cons, length_packBits]
  rfl

section

variable {s : State} {ch : BitVec 8}

/-! ## Receiving a traffic burst -/

/-- A stolen block, from a context just written (R330). -/
theorem State.facchBlock_setCtx (hch : ch.toNat < s.ctx.length) (c : Ctx) (t : Time) {d : Decoder}
    (hd : c.dec.decodeBlock hardware s.nowMs s.csr = d) :
    (s.setCtx ch c).facchBlock hardware ch t =
      { s.setCtx ch { c with dec := d } with up := s.up ++
        ((if xcchValid hardware (c.dec.block hardware) then [frameRecord ch t d] else []) ++ [tchBadRecord ch t d]) } := by
  rw [← hd]
  simp only [State.facchBlock, s.getCtx_setCtx_self c hch, State.updDec_setCtx hch]
  split <;> simp [State.emitUp, State.setCtx]

/-- A speech block, from a context just written (R330). -/
theorem State.speechBlock_setCtx (hch : ch.toNat < s.ctx.length) (c : Ctx) (t : Time) {d : Decoder}
    (hd : c.dec.decodeSpeech hardware s.nowMs s.csr = d) :
    (s.setCtx ch c).speechBlock hardware ch t =
      { s.setCtx ch { c with dec := d } with up := s.up ++
        (if (tchDecode hardware c.dec.dC).good then [tchSpeechRecord ch t d (tchDecode hardware c.dec.dC).s]
          else [tchBadRecord ch t d]) } := by
  rw [← hd]
  simp only [State.speechBlock, s.getCtx_setCtx_self c hch, State.updDec_setCtx hch]
  split <;> simp [State.emitUp, State.setCtx]

/-- The end of a traffic block, from a context just written: it is read, and its stealing flags say how it is decoded (R329,
R334). -/
theorem State.tchBlockEnd_setCtx (hch : ch.toNat < s.ctx.length) (c : Ctx) {B o : Nat} (ho : (endOffset B).toNat = o) (t : Time) :
    (s.setCtx ch c).tchBlockEnd hardware ch B t =
      if 1016 < stealingSum o c.dec.dHl c.dec.dHu then
        (s.setCtx ch { c with dec := c.dec.readBlockAt o }).facchBlock hardware ch t
      else (s.setCtx ch { c with dec := c.dec.readBlockAt o }).speechBlock hardware ch t := by
  have hmajority := facchMajority_eq (endOffset B) c.dec.dHl c.dec.dHu
  rw [ho] at hmajority
  simp only [State.tchBlockEnd, s.getCtx_setCtx_self c hch, State.updDec_setCtx hch, hardware_facchDetect, hmajority, ho,
    decide_eq_true_eq]
  rfl

/-- A burst on a traffic channel is stored in its row, and every fourth row ends a block (R328). -/
theorem State.acceptBurst_traffic {M : Mapping} (hM : (s.getCtx ch).cfg.rxmap = some M) (hk : (s.getCtx ch).cfg.kind = .tch)
    (b : RxBurst) {B : Nat} (hB : (reverse M b.time.fn % 8).toNat = B) {d : Decoder}
    (hd : (s.getCtx ch).dec.storeRow8 B b = d) :
    s.acceptBurst hardware ch b =
      if B % 4 = 3 then (s.setCtx ch { s.getCtx ch with dec := d }).tchBlockEnd hardware ch B b.time
      else s.setCtx ch { s.getCtx ch with dec := d } := by
  have hindex : burstIndex (s.getCtx ch) b.time.fn 8 = B := by rw [burstIndex, hM, ← hB]; rfl
  rw [State.acceptBurst, hk, ← hd]
  simp only [State.tchReceive, hindex]
  rfl

end

end Sys2Proof.Machine

namespace Sys2Proof

open Machine

/-- Settles O41: the burst is stored; at the end of a block the stealing flags choose the decoder, and its verdict decides what is
kept and delivered. -/
theorem rxBurstDecodesTrafficBlock : Obligations.RxBurstDecodesTrafficBlock := by
  intro s ch time meas sym M hs htime hsym hM hk hdemux hopen c b B d1 o q flags u ok x good d2 dF dS bad
  have ⟨_, _, hrun⟩ := hs
  have hch : ch.toNat < s.ctx.length := State.lt_length_of_running hrun
  have hdec : c.hasDecoder = true := c.hasDecoder_iff.2 (.inr (.inl hk))
  have hstored : c.dec.storeRow8 B (rxBurstOf time meas sym) = d1 := rfl
  have haccept : s.acceptBurst hardware ch (rxBurstOf time meas sym) =
      if B % 4 = 3 then (s.setCtx ch { c with dec := d1 }).tchBlockEnd hardware ch B (timeOf time)
      else s.setCtx ch { c with dec := d1 } := State.acceptBurst_traffic hM hk _ rfl hstored
  rw [rxBurst_accepted hs htime hsym hdec meas hdemux hopen, haccept]
  by_cases hB : B % 4 = 3
  · have hend := State.tchBlockEnd_setCtx hch { c with dec := d1 } (toNat_endOffset B) (timeOf time)
    rw [if_pos hB, if_neg (not_not.2 hB), hend]
    have hflags : stealingSum o d1.dHl d1.dHu = flags := rfl
    rw [hflags]
    -- the results of the decoders and of the tests are made opaque, so that `rfl` compares fields without computing them
    by_cases hstolen : 1016 < flags
    case pos =>
      have hgood : good = ok := if_pos hstolen
      have hu : (d1.readBlockAt o).block hardware = invertParity u := d1.readBlockAt_block o
      have hvalid : xcchValid hardware (invertParity u) = ok := by rw [xcchValid_invertParity, hardware_gFire]
      clear_value flags u ok good
      subst hgood
      have hblock : (d1.readBlockAt o).decodeBlock hardware s.nowMs s.csr = dF := by
        rw [Decoder.decodeBlock_eq hu, hvalid]
        simp only [Decoder.withBlock, Decoder.readBlockAt, dF, d2]
        rfl
      rw [if_pos hstolen, if_pos hstolen, State.facchBlock_setCtx hch { c with dec := d1.readBlockAt o } _ hblock, hu, hvalid,
        frameRecord_eq, tchBadRecord_eq]
      rfl
    case neg =>
      have hgood : good = x.good := if_neg hstolen
      have hx : tchDecode hardware (d1.readBlockAt o).dC = x := rfl
      clear_value flags x good
      subst hgood
      have hspeech : (d1.readBlockAt o).decodeSpeech hardware s.nowMs s.csr = dS := by
        rw [Decoder.decodeSpeech_eq, hx]
        simp only [Decoder.withSpeech, Decoder.readBlockAt, dS, d2]
        rfl
      rw [if_neg hstolen, if_neg hstolen, State.speechBlock_setCtx hch { c with dec := d1.readBlockAt o } _ hspeech, hx,
        tchSpeechRecord_eq, tchBadRecord_eq]
      split
      · rfl
      · next hbad =>
        have hprev : dS.prevGood = c.dec.prevGood := if_neg hbad
        rw [hprev]
        rfl
  · rw [if_neg hB, if_pos hB]
    rfl

end Sys2Proof
end

section
/-! PROOFS. O45: `TCH_SEND_SLOT` sends one traffic slot (R322 to R325). -/

namespace Sys2Proof.Machine

/-! ## Composing a slot -/

/-- Composing a slot leaves the offset, the diagonal rows and the flag of the slot before alone (R323). -/
theorem Encoder.composeSlot_frame (e : Encoder) :
    (e.composeSlot hardware).offset = e.offset ∧ (e.composeSlot hardware).eI8 = e.eI8 ∧
    (e.composeSlot hardware).prevFACCH = e.prevFACCH := by
  unfold Encoder.composeSlot
  split
  · exact ⟨rfl, rfl, rfl⟩
  · split <;> exact ⟨rfl, rfl, rfl⟩

/-- What a slot carries, in plain terms: a FACCH frame before a speech frame before the filler (R323). -/
theorem Encoder.composeSlot_eq (e : Encoder) : e.composeSlot hardware =
    match e.facchQ, e.speechQ with
    | f :: fs, _ =>
      let u : BitVec 228 := (lsb8msb f ++ ~~~remainder 0x0004820009#40 (lsb8msb f)) ++ slice e.eU 224 4
      { e with facchQ := fs, speechQ := [], curFACCH := true, eU := u, eC := convEncode u }
    | [], x :: xs =>
      { e with
        speechQ := xs, curFACCH := false, tD := tchReorder hardware x
        tU := tchFold hardware (tchReorder hardware x), eC := tchEncode hardware x }
    | [], [] => { e with curFACCH := false, eC := Config.tchFiller } := by
  unfold Encoder.composeSlot
  cases e.facchQ with
  | cons f fs => simp only [xcchFill_eq_append, hardware_gFire]
  | nil =>
    cases e.speechQ with
    | cons x xs => rfl
    | nil => rfl

/-- The bursts of a slot, from the offset on (R324, R325). -/
theorem Encoder.slotBursts_eq {e : Encoder} {o : Nat} (ho : e.offset.toNat = o) {prev : Bool} (hprev : e.prevFACCH = prev)
    (bcc : BitVec 3) : e.slotBursts hardware bcc =
      [0, 1, 2, 3].map fun B => normalBurst hardware (e.eI8.getD (o + B) 0) prev e.curFACCH bcc := by
  subst ho hprev
  rfl

theorem Offset.toNat_eq (o : Offset) : o.toNat = if o = .zero then 0 else 4 := by cases o <;> rfl

theorem Offset.toggle_eq (o : Offset) : o.toggle = if o = .zero then .four else .zero := by cases o <;> rfl

/-! ## Sending a slot -/

/-- Rolling forward leaves the offset and the stealing flag of the slot alone (R247). -/
theorem Ctx.iterate_roll_slot (c : Ctx) (n : Nat) :
    ((Ctx.roll hardware)^[n] c).enc.offset = c.enc.offset ∧ ((Ctx.roll hardware)^[n] c).enc.curFACCH = c.enc.curFACCH := by
  induction n with
  | zero => exact ⟨rfl, rfl⟩
  | succ n ih =>
    obtain ⟨next, prev, count, hroll⟩ := ((Ctx.roll hardware)^[n] c).roll_frame hardware
    rw [Function.iterate_succ_apply', hroll]
    exact ih

/-- The end of a slot after the rolls of its bursts (R324). -/
theorem Ctx.iterate_roll_endSlot (c : Ctx) (n : Nat) : ((Ctx.roll hardware)^[n] c).enc.endSlot =
    { ((Ctx.roll hardware)^[n] c).enc with prevFACCH := c.enc.curFACCH, offset := c.enc.offset.toggle } := by
  obtain ⟨hoffset, hflag⟩ := c.iterate_roll_slot n
  rw [← hoffset, ← hflag]
  rfl

/-- The context with its next slot composed and interleaved (R323, R324). -/
def Ctx.codeSlot (c : Ctx) : Ctx := { c with enc := (c.enc.composeSlot hardware).interleaveSlot }

/-- The context after a slot of four bursts (R324). -/
def Ctx.slotSent (c : Ctx) : Ctx :=
  { (Ctx.roll hardware)^[4] c with enc := ((Ctx.roll hardware)^[4] c).enc.endSlot }

section

variable {s : State} {ch : BitVec 8} (hch : ch.toNat < s.ctx.length)
include hch

/-- An encoder updated in a context just written. -/
theorem State.updEnc_setCtx (c : Ctx) (f : Encoder → Encoder) :
    (s.setCtx ch c).updEnc ch f = s.setCtx ch { c with enc := f c.enc } := by
  rw [State.updEnc, State.updCtx, s.getCtx_setCtx_self c hch]
  simp [State.setCtx]

/-- The encoder of the rolled context updated. -/
theorem State.updEnc_rolled (n : Nat) (sent : List (List Word)) (f : Encoder → Encoder) :
    (s.rolled ch n sent).updEnc ch f =
      { s with
        ctx := s.ctx.set ch.toNat
          { (Ctx.roll hardware)^[n] (s.getCtx ch) with enc := f ((Ctx.roll hardware)^[n] (s.getCtx ch)).enc }
        tx := s.tx ++ sent
        up := s.up ++ nextWtimesOf ch (s.getCtx ch) n } := by
  rw [State.updEnc, State.updCtx, State.getCtx_rolled hch]
  simp [State.rolled, State.setCtx]

/-- `TCH_SEND_SLOT` after the wait, from a context just written (R324). -/
theorem State.sendSlot_setCtx (c : Ctx) : (s.setCtx ch c).sendSlot hardware ch =
    { s with
      ctx := s.ctx.set ch.toNat c.codeSlot.slotSent
      tx := s.tx ++ txRecordsOf ch c.codeSlot (c.codeSlot.enc.slotBursts hardware s.csr.bcc)
      up := s.up ++ nextWtimesOf ch c.codeSlot 4 } := by
  have hlen (c' : Ctx) : ch.toNat < (s.setCtx ch c').ctx.length := by rwa [State.length_setCtx]
  have hcode : (s.setCtx ch c).updEnc ch (fun e => (e.composeSlot hardware).interleaveSlot) = s.setCtx ch c.codeSlot :=
    State.updEnc_setCtx hch ..
  simp only [State.sendSlot, hcode, s.getCtx_setCtx_self _ hch, State.sendBursts_eq_rolled (hlen _),
    State.updEnc_rolled (hlen _)]
  simp [State.setCtx, Encoder.slotBursts, Ctx.slotSent]

end

/-- `TCH_SEND_SLOT` on an open context whose wait is over sends its slot from the resynced schedule, the speech queue capped
(R322, R324). -/
theorem tchSendSlot_sends {s : State} {ch : BitVec 8} (hs : s.readyOn ch) (hk : (s.getCtx ch).cfg.kind = .tch)
    (hopen : (s.getCtx ch).enc.active = true)
    (hwait : 0 ≤ timeCmp hardware s.nowTime ((s.getCtx ch).resync hardware s.t0).enc.prevWT) :
    exec (.tchSendSlot ch 0#16) s = .next (State.answered
      ((s.setCtx ch (((s.getCtx ch).resync hardware s.t0).capSpeech s.csr.maxSpeechLatency)).sendSlot hardware ch)
      0x63000000#32 []) := by
  refine (State.command_of_pass hs.1 (beaconChecks_pass hs hk) ..).trans ((if_pos hopen).trans ?_)
  simp only [Ctx.resync_capSpeech]
  exact State.waitToSend_done hwait ..

end Sys2Proof.Machine

namespace Sys2Proof

open Machine

/-- Settles O45: past the wait, `sendSlot` composes the slot in the resynced context, rolls once for each of its four bursts and
turns the offset. -/
theorem tchSendSlotSendsFourBursts : Obligations.TchSendSlotSendsFourBursts := by
  intro s ch hs hk hopen hwait c1 cap e1 e2 o rows c2 bursts c3
  have ⟨_, _, hrun⟩ := hs
  have hch : ch.toNat < s.ctx.length := State.lt_length_of_running hrun
  have hcompose : e1.composeSlot hardware = e2 := e1.composeSlot_eq
  have hoffset : e1.offset.toNat = o := e1.offset.toNat_eq
  obtain ⟨hkeepOffset, hkeepRows, hkeepFlag⟩ := e1.composeSlot_frame
  rw [hcompose] at hkeepOffset hkeepRows hkeepFlag
  have hinterleave : e2.interleaveSlot = c2.enc := by
    have hrows : interleave e2.offset.toNat e2.eC e2.eI8 = rows := by rw [hkeepOffset, hkeepRows, hoffset]
    rw [Encoder.interleaveSlot, hrows]
  have hcode : (c1.capSpeech s.csr.maxSpeechLatency).codeSlot = c2 := by
    have hcapped : (c1.capSpeech s.csr.maxSpeechLatency).codeSlot
        = { c1 with enc := (e1.composeSlot hardware).interleaveSlot } := rfl
    rw [hcapped, hcompose, hinterleave]
  have hbursts : c2.enc.slotBursts hardware s.csr.bcc = bursts := by
    have hfirst : c2.enc.offset.toNat = o := (congrArg Offset.toNat hkeepOffset).trans hoffset
    have hflag : c2.enc.prevFACCH = e1.prevFACCH := hkeepFlag
    rw [Encoder.slotBursts_eq hfirst hflag, Csr.bcc]
  have hsent : c2.slotSent =
      { c3 with enc := { c3.enc with prevFACCH := e2.curFACCH, offset := if e1.offset = .zero then .four else .zero } } := by
    rw [Ctx.slotSent, Ctx.iterate_roll_endSlot, ← Offset.toggle_eq, ← hkeepOffset]
  rw [tchSendSlot_sends hs hk hopen hwait, State.sendSlot_setCtx hch, hcode, hbursts, hsent]

end Sys2Proof
end

section
/-! PROOFS. O4: a held command goes on alone (R392, R416). O8 and O9: the fault state blocks every command but `RESET` and
`CSR_READ`, and keeps the fault (R384, R385, R387). O14 and O19: the state right after reset (R276, R411). -/

namespace Sys2Proof.Machine

section

variable {s t : State} {i : Instr}

/-! ## A held command (R392) -/

/-- A held command goes on in the turn of the command processor. -/
theorem processorTurn_of_held {run : Instr → State → Result} {h : Held} (hheld : s.held = some h) :
    processorTurn run s = run h.instr s := by
  simp only [processorTurn, hheld]

/-- With nothing held and no whole command on the port the command processor is idle (R413). -/
theorem processorTurn_of_incomplete {run : Instr → State → Result} (hheld : s.held = none)
    (hdec : decode s.cmd = .incomplete) : processorTurn run s = .next s := by
  simp only [processorTurn, hheld, hdec]

/-- A held command that holds on keeps its `t0`, so nothing changes. -/
theorem State.holding_of_held {h : Held} (hheld : s.held = some h) : s.holding h.instr = s := by
  have ht0 : s.t0 = h.t0 := by simp only [State.t0, hheld]
  rw [State.holding, ht0, ← hheld]

/-- A command holds, or ends with no command held. -/
theorem exec_holds_or_ends (h : exec i s = .next t) : t = s.holding i ∨ t.held = none := by
  have hexec := exec_answersOrHolds i s
  rw [h] at hexec
  cases hexec with
  | holds => exact .inl rfl
  | answers u result ws => exact .inr rfl

/-! ## The fault state (R385) -/

/-- `t` has the registers of `s`, or the reset values in every register and every context. -/
def State.KeepsCsrOrResets (s t : State) : Prop :=
  t.csr = s.csr ∨ (t.csr = Csr.reset hardware ∧ t.ctx = Ctx.allReset hardware)

/-- In the fault state every command but `RESET` and `CSR_READ` is blocked. -/
theorem exec_of_faulted (hf : s.faulted = true) (hreset : i.opcode ≠ .reset) (hread : i.opcode ≠ .csrRead) :
    exec i s = .next (s.afterBlock i.opcode.code) := by
  rw [← State.blocked_eq_afterBlock]
  cases i with
  | reset => exact absurd rfl hreset
  | csrRead => exact absurd rfl hread
  | _ => exact State.command_of_faulted hf ..

/-- In the fault state `CSR_READ` answers or is blocked, and writes no register. -/
theorem execCsrRead_csr_of_faulted (hf : s.faulted = true) {ch : BitVec 8} {arg : BitVec 16}
    (h : execCsrRead ch arg s = .next t) : t.csr = s.csr := by
  unfold execCsrRead at h
  split at h
  · cases h; rfl
  · rw [if_pos hf] at h
    cases h; rfl

/-- No command changes a register in the fault state, but `RESET`, which resets all of them and every context. -/
theorem exec_csr_of_faulted (hf : s.faulted = true) (h : exec i s = .next t) :
    s.KeepsCsrOrResets t := by
  by_cases hreset : i.opcode = .reset
  · cases i <;> cases hreset
    cases h
    exact .inr ⟨rfl, rfl⟩
  by_cases hread : i.opcode = .csrRead
  · cases i <;> cases hread
    exact .inl (execCsrRead_csr_of_faulted hf h)
  · rw [exec_of_faulted hf hreset hread] at h
    cases h
    exact .inl rfl

/-- In the fault state an unassigned operation code is blocked too. -/
theorem illegalCommand_of_faulted (hf : s.faulted = true) (f : FaultCode) (w : Word) :
    illegalCommand f w s = .next (s.afterBlock (opcField w)) :=
  if_pos hf

theorem illegalCommand_csr_of_faulted (hf : s.faulted = true) {f : FaultCode} {w : Word}
    (h : illegalCommand f w s = .next t) : s.KeepsCsrOrResets t := by
  rw [illegalCommand_of_faulted hf] at h
  cases h
  exact .inl rfl

theorem processorTurn_csr_of_faulted (hf : s.faulted = true) (h : processorTurn exec s = .next t) :
    s.KeepsCsrOrResets t := by
  unfold processorTurn at h
  split at h
  · exact exec_csr_of_faulted hf h
  · split at h
    · next rest _ => exact exec_csr_of_faulted (s := { s with cmd := rest }) hf h
    · next rest _ => exact illegalCommand_csr_of_faulted (s := { s with cmd := rest }) hf h
    · next rest _ => exact illegalCommand_csr_of_faulted (s := { s with cmd := rest }) hf h
    · cases h; exact .inl rfl

/-- In the fault state the agents change no register, but for a reset. -/
theorem agentTurn_csr_of_faulted (hf : s.faulted = true) {a : Turn} (h : agentTurn hardware exec a s = .next t) :
    s.KeepsCsrOrResets t := by
  cases a with
  | processor => exact processorTurn_csr_of_faulted hf h
  | clock time ms =>
    simp only [agentTurn, clockTurn] at h
    split at h
    · cases h; exact .inl rfl
    · cases h
  | rst => cases h; exact .inr ⟨rfl, rfl⟩
  | issue words => cases h; exact .inl rfl

/-! ## The checks of `CSR_READ` (R271) -/

/-- Every index up to `0x000D` names a register (R31). -/
theorem State.exists_csrRead (s : State) {arg : BitVec 16} (h : arg.toNat ≤ 0xD) : ∃ v, s.csrRead hardware arg = some v := by
  unfold State.csrRead
  generalize arg.toNat = n at h
  interval_cases n <;> exact ⟨_, rfl⟩

/-- The checks of `CSR_READ` fail on a non-zero `ch` and on a reserved index (R271). -/
theorem csrReadChecks_fail {ch : BitVec 8} {arg : BitVec 16} (h : ch ≠ 0#8 ∨ 0xD < arg.toNat) :
    ∃ f, firstFault [notGlobal ch, ((s.csrRead hardware arg).isNone, .badArgument)] = some f := by
  by_cases hch : ch = 0#8
  · refine ⟨.badArgument, ?_⟩
    rw [State.csrRead_reserved s (h.resolve_left (· hch)), hch]
    rfl
  · exact ⟨.badChannel, by rw [notGlobal_of_ne hch, firstFault_fail]⟩

/-! ## The state right after reset (R411) -/

/-- After a reset every context that exists is the reset context. -/
theorem State.getCtx_of_allReset (h : s.ctx = Ctx.allReset hardware) {c : BitVec 8} (hc : c.toNat < 64) :
    s.getCtx c = .reset := by
  rw [State.getCtx, h]
  exact List.getD_replicate _ hc

/-- The times of the reset context are `(0, 0)`. -/
theorem Ctx.reset_timesLegal : Ctx.reset.timesLegal = true := rfl

end

end Sys2Proof.Machine

namespace Sys2Proof

open Machine

/-- Settles O4: a hold keeps the state, an answer ends the command. -/
theorem heldCommandGoesOn : Obligations.HeldCommandGoesOn := by
  refine ⟨fun s h hheld hsched => ?held, fun s hheld hsched hdec => ?idle⟩
  case held =>
    have hstep : step s = exec h.instr s := (step_of_sched_nil hsched).trans (processorTurn_of_held hheld)
    refine ⟨hstep, fun t ht => ?_⟩
    rw [hstep] at ht
    exact (exec_holds_or_ends ht).imp_left fun hold => hold.trans (State.holding_of_held hheld)
  case idle => exact (step_of_sched_nil hsched).trans (processorTurn_of_incomplete hheld hdec)

/-- Settles O8: whoever takes the turn, in the fault state only a reset writes a register. -/
theorem faultsNeverNest : Obligations.FaultsNeverNest := by
  intro s t hf h
  unfold step machineTurn at h
  split at h
  · exact processorTurn_csr_of_faulted hf h
  · next ts _ => exact agentTurn_csr_of_faulted (s := { s with sched := ts }) hf h

/-- Settles O9: a command is blocked before its checks run; `CSR_READ` runs them first, and `RESET` has none. -/
theorem faultStateBlocks : Obligations.FaultStateBlocks := by
  intro s hf hheld hsched
  have hstep : ∀ i rest, decode s.cmd = .instr i rest → step s = exec i { s with cmd := rest } := fun i rest hdec =>
    (step_of_sched_nil hsched).trans (processorTurn_of_instr hheld hdec)
  refine ⟨fun i rest hdec hreset hread => ?blocked, fun w rest hdec => ?unassigned, fun arg rest hdec harg => ?reads,
    fun ch arg rest hdec hbad => ?refuses, fun ch arg rest hdec => ?resets⟩
  case blocked => rw [hstep i rest hdec, exec_of_faulted (s := { s with cmd := rest }) hf hreset hread]
  case unassigned =>
    rw [step_of_sched_nil hsched, processorTurn, hheld]
    rcases hdec with hdec | hdec <;> rw [hdec] <;>
      exact illegalCommand_of_faulted (s := { s with cmd := rest }) hf ..
  case reads =>
    obtain ⟨v, hv⟩ := s.exists_csrRead harg
    exact ⟨v, hv, (hstep _ rest hdec).trans (csrRead_answers (s := { s with cmd := rest }) hv)⟩
  case refuses =>
    obtain ⟨f, hfault⟩ := csrReadChecks_fail (s := { s with cmd := rest }) hbad
    rw [hstep _ rest hdec, csrRead_refuses hfault, if_pos hf]
  case resets => exact ⟨_, hstep _ rest hdec, rfl⟩

/-- Settles O14: the reset registers and the reset context meet every invariant. -/
theorem resetMeetsInvariants : Obligations.ResetMeetsInvariants := by
  have hall : ∀ {p : Ctx → Bool}, p .reset = true → State.reset.everyCtx p = true := everyCtx_of_allReset rfl
  have hsched := (Bool.and_eq_true _ _ ▸ Ctx.reset_onSchedule).2
  exact ⟨Csr.reset_legal, length_allReset, hall Ctx.reset_legal, hall ((Ctx.tailsZero_iff _).2 Encoder.tailsZero_reset),
    hall ((Ctx.softLegal_iff _).2 Decoder.softLegal_reset), hall hsched,
    State.timesLegal_iff.2 ⟨rfl, nofun, hall Ctx.reset_timesLegal⟩⟩

/-- Settles O19: `RESET` has no checks, and its effect writes the reset values. -/
theorem resetEffect : Obligations.ResetEffect := by
  intro ch arg s
  refine ⟨_, rfl, rfl, rfl, length_allReset, fun c hc => ?_, rfl, rfl, rfl, rfl, rfl, rfl⟩
  have hget : ((s.resetEffect hardware).complete .reset []).getCtx c = .reset := State.getCtx_of_allReset rfl hc
  rw [hget]
  exact ⟨rfl, rfl, rfl⟩

end Sys2Proof
end

section
/-! PROOFS. O48: the measurement commands (R353, R354, R364). O49: the FER filter and its fixed point (R350 to R352, R355). -/

namespace Sys2Proof.Machine

/-! ## The FER filter in arithmetic (R350 to R352) -/

theorem toNat_ferGood (f : BitVec 32) : (ferGood hardware f).toNat = f.toNat * 207 / 208 := by
  have hf := f.isLt
  refine (BitVec.toNat_ofNat ..).trans (Nat.mod_eq_of_lt ?_)
  rw [hardware_mFer]
  omega

theorem toNat_ferBad (f : BitVec 32) : (ferBad hardware f).toNat = f.toNat * 207 / 208 + 20648881 := by
  have hf := f.isLt
  rw [ferBad, BitVec.toNat_add, toNat_ferGood, hardware_mFer, BitVec.toNat_ofNat]
  omega

/-! ## Bad frames in a row -/

/-- The distance of the error rate from `0xFFFFFF01`, the fixed point of the filter on bad frames (R355), after `n` more bad
frames, starting at distance `d`. The case on `d` makes each frame evaluate before the next. -/
def ferDistance : Nat → Nat → Nat
  | 0, d => d
  | _ + 1, 0 => 0
  | n + 1, d + 1 => ferDistance n ((d + 1) * 207 / 208)

theorem ferDistance_succ (n d : Nat) : ferDistance (n + 1) d = ferDistance n (d * 207 / 208) := by
  cases d with
  | zero => cases n <;> rfl
  | succ d => rfl

/-- A bad frame shrinks the distance to the fixed point as a good frame shrinks the rate. -/
theorem toNat_ferBad_add {f : BitVec 32} {d : Nat} (h : f.toNat + d = 0xFFFFFF01) :
    (ferBad hardware f).toNat + d * 207 / 208 = 0xFFFFFF01 := by
  rw [toNat_ferBad]
  omega

theorem toNat_iterate_ferBad {f : BitVec 32} {d : Nat} (h : f.toNat + d = 0xFFFFFF01) (n : Nat) :
    ((ferBad hardware)^[n] f).toNat + ferDistance n d = 0xFFFFFF01 := by
  induction n generalizing f d with
  | zero => exact h
  | succ n ih => rw [Function.iterate_succ_apply, ferDistance_succ, ih (toNat_ferBad_add h)]

/-- The distance after `n` bad frames on a rate of 0. -/
theorem toNat_iterate_ferBad_zero (n : Nat) :
    ((ferBad hardware)^[n] 0#32).toNat + ferDistance n 0xFFFFFF01 = 0xFFFFFF01 := toNat_iterate_ferBad rfl n

theorem ferBad_fixed : ferBad hardware 0xFFFFFF01#32 = 0xFFFFFF01#32 := by decide

theorem ferDistance_208 : ferDistance 208 0xFFFFFF01 = 1576224229 := by decide +kernel

theorem ferDistance_3614 : ferDistance 3614 0xFFFFFF01 = 1 := by decide +kernel

/-! ## The measurement commands -/

theorem length_phyWords (d : Decoder) : (phyWords d).length = 3 := rfl

section

variable {s : State} {ch : BitVec 8} (hs : s.readyOn ch) (hdec : (s.getCtx ch).hasDecoder = true)
include hs hdec

/-- The checks of the measurement commands pass on a configured context with a decoder. -/
theorem decoderChecks_pass :
    firstFault [noContext hardware ch, argUsed 0#16, s.notRunning ch, (!(s.getCtx ch).hasDecoder, .wrongKind)] = none := by
  rw [contextChecks hs, hdec]
  rfl

theorem phyRead_answers (hring : (s.getCtx ch).cfg.kind.hasRing = true) :
    exec (.phyRead ch 0#16) s = .next (State.answered (s.withCtx ch
      { s.getCtx ch with dec := { (s.getCtx ch).dec with phyNew := false } }) 0x70000003#32 (phyWords (s.getCtx ch).dec)) := by
  refine (State.command_of_pass hs.1 ?_ ..).trans ?_
  · rw [contextChecks hs, hdec, hring]
    rfl
  · rw [State.complete_eq_answered, length_phyWords]
    rfl

end

theorem Kind.hasRing_eq (k : Kind) : k.hasRing = (k == .xcch || k == .sacch || k == .tch) := by cases k <;> rfl

theorem ringSum_eq (v : Vector (BitVec 16) 4) : ringSum v = v[0].toInt + v[1].toInt + v[2].toInt + v[3].toInt := by
  obtain ⟨⟨l⟩, hl⟩ := v
  match l, hl with
  | [a, b, c, d], _ => simp [ringSum, add_assoc]

/-- The sum of four signed half words fits a signed word (R364). -/
theorem toInt_signedWord_ringSum (v : Vector (BitVec 16) 4) :
    (signedWord (ringSum v)).toInt = v[0].toInt + v[1].toInt + v[2].toInt + v[3].toInt := by
  have hrange (x : BitVec 16) : -2 ^ 15 ≤ x.toInt ∧ x.toInt < 2 ^ 15 := ⟨x.le_toInt, x.toInt_lt⟩
  have h0 := hrange v[0]
  have h1 := hrange v[1]
  have h2 := hrange v[2]
  have h3 := hrange v[3]
  rw [toInt_signedWord (by rw [ringSum_eq]; omega) (by rw [ringSum_eq]; omega), ringSum_eq]

end Sys2Proof.Machine

namespace Sys2Proof

open Machine

/-- Settles O48: the checks pass, and each command writes its field of the decoder. -/
theorem measurementCommandsAnswer : Obligations.MeasurementCommandsAnswer := by
  intro s ch hs hdec c
  have hpass := decoderChecks_pass hs hdec
  refine ⟨fun hk => ?read, ?good, ?bad⟩
  case read =>
    have hring : c.cfg.kind.hasRing = true := by simpa [Kind.hasRing_eq, or_assoc] using hk
    exact ⟨_, _, phyRead_answers hs hdec hring, toInt_signedWord_ringSum _, toInt_signedWord_ringSum _⟩
  case good => exact ⟨ferGood hardware c.dec.fer, toNat_ferGood _, State.command_of_pass hs.1 hpass ..⟩
  case bad => exact ⟨ferBad hardware c.dec.fer, toNat_ferBad _, State.command_of_pass hs.1 hpass ..⟩

/-- Settles O49: the distance to the fixed point after 208 and after 3614 bad frames is computed; the next frame reaches the
fixed point, which is kept. -/
theorem ferFilterBounds : Obligations.FerFilterBounds := by
  refine ⟨fun f => ?bounds, ?first, ?before, fun n hn => ?fixed⟩
  case bounds =>
    have hf := f.isLt
    rw [toNat_ferBad, toNat_ferGood]
    omega
  case first =>
    have h := toNat_iterate_ferBad_zero 208
    rw [ferDistance_208] at h
    exact BitVec.eq_of_toNat_eq (Nat.add_right_cancel h)
  case before =>
    intro heq
    have h := toNat_iterate_ferBad_zero 3614
    rw [ferDistance_3614, heq] at h
    exact absurd h (by decide)
  case fixed =>
    have hlast : (ferBad hardware)^[3614] 0#32 = 0xFFFFFF00#32 := by
      have h := toNat_iterate_ferBad_zero 3614
      rw [ferDistance_3614] at h
      exact BitVec.eq_of_toNat_eq (Nat.add_right_cancel h)
    have hreached : (ferBad hardware)^[3615] 0#32 = 0xFFFFFF01#32 := by
      rw [Function.iterate_succ_apply', hlast]
      rfl
    obtain ⟨k, rfl⟩ := Nat.exists_eq_add_of_le' hn
    rw [Function.iterate_add_apply, hreached]
    exact Function.iterate_fixed ferBad_fixed k

end Sys2Proof
end

section
/-! PROOFS. For O7: each check of a command is the condition that the rules state: `arg` (R120), payload fields (R115, R116,
R118), registers (R270, R271), R244 from the words of `CH_CONFIG`, the kind (R282 to R293), the demux check (R246). -/

namespace Sys2Proof.Machine

section

variable {s : State} {ch : BitVec 8} {arg : BitVec 16}

/-! ## Lists of checks -/

/-- Two checks with the same fault are one check. -/
theorem firstFault_and (a b : Bool) (f : FaultCode) (l : List (Bool × FaultCode)) :
    firstFault ((!a, f) :: (!b, f) :: l) = firstFault ((!(a && b), f) :: l) := by
  cases a <;> rfl

/-! ## Arguments (R120) -/

theorem argUsed_eq (arg : BitVec 16) : argUsed arg = (!decide (arg.toNat = 0), .badArgument) := by
  simp [argUsed, bne, BitVec.toNat_eq, beq_eq_decide]

theorem argAbove_eq (arg : BitVec 16) (n : Nat) : argAbove arg n = !decide (arg.toNat < 2 ^ n) := by
  by_cases h : arg.toNat < 2 ^ n
  · rw [argAbove_of_lt h, decide_eq_true h, Bool.not_true]
  · have hne : arg >>> n ≠ 0#16 := fun h0 => h <| by
      have hdiv := congrArg BitVec.toNat h0
      rw [BitVec.toNat_ushiftRight, Nat.shiftRight_eq_div_pow, BitVec.toNat_ofNat, Nat.zero_mod,
        Nat.div_eq_zero_iff_lt (Nat.two_pow_pos n)] at hdiv
      exact hdiv
    rw [decide_eq_false h, argAbove, bne_iff_ne.2 hne, Bool.not_false]

theorem lsb8msbLengthBad_eq (n : Nat) : (n == 0 || decide (1024 < n)) = !decide (1 ≤ n ∧ n ≤ 1024) := by
  rw [Bool.eq_iff_iff]
  simp

theorem codeLengthBad_eq (arg : BitVec 16) :
    codeLengthBad arg = (!decide (5 ≤ arg.toNat ∧ arg.toNat ≤ 512), .badArgument) := by
  refine Prod.ext ?_ rfl
  rw [codeLengthBad, Bool.eq_iff_iff]
  simp

theorem blockCode_isNone (id : BitVec 16) : (blockCode hardware id).isNone = !decide (id.toNat ≤ 3) := by
  unfold blockCode
  by_cases h : id.toNat ≤ 3
  · rw [decide_eq_true h]
    generalize id.toNat = n at h
    interval_cases n <;> rfl
  · rw [decide_eq_false h]
    split
    case h_5 => rfl
    all_goals omega

theorem argOffset_isNone (arg : BitVec 16) : (argOffset arg).isNone = !decide (arg.toNat = 0 ∨ arg.toNat = 4) := by
  unfold argOffset
  split <;> simp_all

/-! ## Registers (R270, R271) -/

theorem csrRead_isNone (s : State) (arg : BitVec 16) :
    (s.csrRead hardware arg).isNone = !(Instr.csrRead ch arg).registerLegal := by
  rcases Nat.lt_or_ge 0xD arg.toNat with h | h
  · rw [State.csrRead_reserved s h, Instr.registerLegal, decide_eq_false (Nat.not_le.2 h)]
    rfl
  · obtain ⟨v, hv⟩ := s.exists_csrRead h
    rw [hv, Instr.registerLegal, decide_eq_true h]
    rfl

theorem isNone_ite_some {α : Type} (p : Prop) [Decidable p] (a : α) :
    (if p then some a else none).isNone = !decide p := by
  by_cases h : p <;> simp [h]

theorem csrWrite_isNone (r : Csr) (arg : BitVec 16) (v : Word) :
    (r.write hardware arg v).isNone = !(Instr.csrWrite ch arg v).registerLegal := by
  by_cases harg : arg.toNat < 2 ∨ 6 < arg.toNat
  · have hne (k : Nat) (h2 : 2 ≤ k) (h6 : k ≤ 6) : arg ≠ BitVec.ofNat 16 k := fun h => by
      rw [h, BitVec.toNat_ofNat] at harg
      omega
    rw [Csr.write_unwritable r v harg]
    simp [Instr.registerLegal, hne 2, hne 3, hne 4, hne 5, hne 6]
  · have hcases : arg = 2#16 ∨ (arg = 3#16 ∨ arg = 4#16 ∨ arg = 5#16) ∨ arg = 6#16 := by bv_omega
    rcases hcases with rfl | htimeout | rfl
    · rfl
    · have hlegal : (Instr.csrWrite ch arg v).registerLegal = decide (legalTimeout v = true) := by
        rcases htimeout with rfl | rfl | rfl <;> simp [Instr.registerLegal, legalTimeout_iff]
      rw [hlegal]
      rcases htimeout with rfl | rfl | rfl <;> exact isNone_ite_some ..
    · have hlow : (v.extractLsb' 0 8).toNat = v.toNat % 256 := BitVec.extractLsb'_toNat ..
      refine (isNone_ite_some ..).trans ?_
      rw [hlow]
      rfl

/-! ## `CH_CONFIG` (R244, R272) -/

/-- The codes of the kinds that a context can be configured with (R40). -/
theorem eq_kindCode_of_kindOfCode {code : BitVec 4} {k : Kind} (h : kindOfCode code = some k) :
    k ≠ .none ∧ code = kindCode k := by
  revert code
  cases k <;> decide

theorem kindOfCode_eq_none_iff : ∀ code : BitVec 4, kindOfCode code = none ↔ ¬ (1 ≤ code.toNat ∧ code.toNat ≤ 6) := by
  decide

theorem mappingPresence_eq {k : Kind} (hk : k ≠ .none) (tx rx : Bool) : mappingPresence k tx rx =
    (decide (tx = true ↔ (kindCode k).toNat ≠ 3) && decide ((kindCode k).toNat = 3 ∨ (kindCode k).toNat = 6 → rx = true)
      && decide ((kindCode k).toNat = 4 ∨ (kindCode k).toNat = 5 → rx = false)) := by
  cases k with
  | none => exact absurd rfl hk
  | _ => revert tx rx; decide

/-- A record with `m = 0` stands for no mapping (R118). -/
theorem recordM_eq_zero_iff (r : MapRecord) : recordM r.head = 0 ↔ r.head.extractLsb' 24 8 = 0#8 :=
  (BitVec.toNat_eq (y := 0#8)).symm

theorem recordMapping_isSome (r : MapRecord) : (recordMapping r).isSome = (r.head.extractLsb' 24 8 != 0#8) := by
  rw [Bool.eq_iff_iff, bne_iff_ne, Ne, ← recordM_eq_zero_iff, recordMapping]
  split <;> simp [*]

/-- The kinds that condition 4 of R244 names, by their codes (R40). -/
theorem kindCode_of_blocks (k : Kind) : ((kindCode k).toNat = 1 ∨ (kindCode k).toNat = 2 ↔ k = .xcch ∨ k = .sacch) ∧
    ((kindCode k).toNat = 6 ↔ k = .tch) := by
  cases k <;> decide

/-- Conditions 1 to 6 of R244 read off the words of a record. -/
theorem MapRecord.meets_iff (k : Kind) (tn : BitVec 3) (down : Bool) (r : MapRecord) :
    r.meets (kindCode k).toNat tn down = true ↔ Mapping.Meets tn k down
      { allowed := r.head.extractLsb' 16 8, downlink := r.head.getLsbD 7, p := r.p, forward := r.forward
        tag := r.head.extractLsb' 8 8 } := by
  obtain ⟨hcontrol, htraffic⟩ := kindCode_of_blocks k
  have htn : tn.toNat < 8 := tn.isLt
  simp only [MapRecord.meets, Mapping.Meets, Bool.and_eq_true, decide_eq_true_eq, List.all_eq_true, beq_iff_eq, hcontrol,
    htraffic, Nat.dvd_iff_mod_eq_zero, and_assoc, BitVec.getLsbD_extractLsb', htn, decide_true,
    Bool.true_and]

/-- Conditions 1 to 6 of R244 on the mapping of a record are those read off its words. -/
theorem recordMapping_all (k : Kind) (tn : BitVec 3) (down : Bool) (r : MapRecord) :
    (recordMapping r).all (mappingWf hardware k tn down) =
      (!(r.head.extractLsb' 24 8 != 0#8) || r.meets (kindCode k).toNat tn down) := by
  rw [← recordMapping_isSome, recordMapping]
  split
  · rfl
  · rw [Bool.eq_iff_iff, Option.all_some, mappingWf_iff, ← MapRecord.meets_iff]
    rfl

/-- `CH_CONFIG` refuses exactly the payloads that break R244 or select no kind. -/
theorem configurable_isNone (w0 : Word) (tx rx : MapRecord) :
    (configurable hardware w0 tx rx).isNone = !configMeets w0 tx rx := by
  rw [configurable, configMeets, configKind, configTn]
  generalize hcode : w0.extractLsb' 28 4 = code
  rcases hk : kindOfCode code with _ | k
  · simp [decide_eq_false ((kindOfCode_eq_none_iff code).1 hk)]
  · obtain ⟨hne, rfl⟩ := eq_kindCode_of_kindOfCode hk
    have hrange : 1 ≤ (kindCode k).toNat ∧ (kindCode k).toNat ≤ 6 := by
      by_contra hn
      rw [(kindOfCode_eq_none_iff _).2 hn] at hk
      cases hk
    rw [isNone_ite_some, Bool.decide_eq_true, mappingsWf, mappingPresence_eq hne, recordMapping_isSome,
      recordMapping_isSome, recordMapping_all, recordMapping_all, decide_eq_true hrange, Bool.true_and]

/-! ## Kinds, mappings and queues -/

theorem Kind.takesData_eq (k : Kind) : k.takesData = (k == .xcch || k == .sacch || k == .tch) := by cases k <;> rfl

theorem Ctx.mapping_isNone (c : Ctx) (arg : BitVec 16) :
    (c.mapping (argBit0 arg)).isNone = !(if arg.getLsbD 0 then c.cfg.rxmap.isSome else c.cfg.txmap.isSome) := by
  rw [Ctx.mapping, argBit0]
  split <;> simp

theorem demuxFails_eq (c : Ctx) (time : Word) : demuxFails c (timeOf time) = !c.takesBurst time := by
  rw [Ctx.takesBurst]
  rcases hM : c.cfg.rxmap with _ | M
  · simp [demuxFails, hM]
  · rw [← Bool.not_inj_iff, Bool.not_not, Bool.eq_iff_iff, Bool.not_eq_true', demuxFails_eq_false_iff hM]
    simp [timeOf]

end

end Sys2Proof.Machine
end

section
/-! PROOFS. O7: a command runs the checks of R383 in one order, and completes or holds when all pass. -/

namespace Sys2Proof

open Machine

/-! ## The checks of the rule -/

/-- Item 9 of R383 and the demux check of R246: the checks that one operation has for itself. -/
def Instr.ownChecks (i : Instr) (c : Ctx) : List (Bool × FaultCode) :=
  match i with
  | .rxBurst _ _ time _ _ => [(!c.takesBurst time, .demuxMisconfig)]
  | .l2Data _ _ _ => [(c.cfg.kind == .tch && c.enc.active && decide (c.enc.facchQ.length = 8), .queueOverflow)]
  | _ => []

/-- The checks of `Instr.verdict` as a list of checks, in the order of R383. -/
def Instr.ruleChecks (i : Instr) (s : State) : List (Bool × FaultCode) :=
  (if i.opcode.isGlobal then i.ch != 0#8 else decide (64 ≤ i.ch.toNat), .badChannel)
    :: (!i.opcode.argLegal i.arg, .badArgument) :: (!i.payloadLegal, .badArgument) :: (!i.registerLegal, .badArgument)
    :: (!i.opcode.isGlobal && i.opcode != .chConfig && i.opcode != .chDeconfig && i.opcode != .chStatus
      && !(s.getCtx i.ch).cfg.running, .notConfigured)
    :: (!i.configLegal (s.getCtx i.ch), .configError) :: (!i.kindLegal (s.getCtx i.ch), .wrongKind)
    :: i.ownChecks (s.getCtx i.ch)

theorem Instr.verdict_eq (i : Instr) (s : State) : i.verdict s = (firstFault (i.ruleChecks s)).map FaultCode.code := by
  simp only [Instr.verdict, Instr.ruleChecks, firstFault_cons, apply_ite (Option.map FaultCode.code)]
  cases i with
  | rxBurst ch arg time =>
    simp only [Instr.ownChecks, firstFault_cons]
    cases (s.getCtx (Instr.ch _)).takesBurst time <;> rfl
  | l2Data =>
    simp only [Instr.ownChecks, firstFault_cons, apply_ite (Option.map FaultCode.code)]
    rfl
  | _ => rfl

/-! ## Effects -/

/-- The outcomes that the effect of the command `i` from `s` may have: it holds, or completes with result `0x00` after appending
records (R383). -/
inductive CompletesOrHolds (i : Instr) (s : State) : Result → Prop where
  | holds : CompletesOrHolds i s (.next (s.holding i))
  | completes (u : State) (ws : List Word) (hu : s.Appends u) : CompletesOrHolds i s (.next (u.complete i.opcode ws))

/-- The command `i` runs the checks of R383 in their order; its effect completes or holds. -/
inductive RunsChecks (i : Instr) (s : State) : Result → Prop where
  | intro (checks : List (Bool × FaultCode)) (e : Result) (hchecks : firstFault checks = firstFault (i.ruleChecks s))
    (he : CompletesOrHolds i s e) : RunsChecks i s (s.command i.opcode i.ch checks e)

section

variable {i : Instr} {s : State} {ch : BitVec 8} {arg : BitVec 16}

theorem CompletesOrHolds.pure (ws : List Word) : CompletesOrHolds i s (.next (s.complete i.opcode ws)) :=
  .completes s ws (.refl s)

theorem CompletesOrHolds.waitToSend {P : Config.Params} {w : Time} {done : State} (hd : CompletesOrHolds i s (.next done)) :
    CompletesOrHolds i s (s.waitToSend P i w done) := by
  unfold State.waitToSend
  split
  · exact hd
  · exact .holds

theorem CompletesOrHolds.ifActive {e : Result} (he : CompletesOrHolds i s e) :
    CompletesOrHolds i s (if (s.getCtx ch).enc.active then e else .next (s.complete i.opcode [])) := by
  split
  · exact he
  · exact .pure []

theorem sendOne_completesOrHolds {bits : BitVec 148} :
    CompletesOrHolds i s (sendOne hardware i.opcode i ch bits s) :=
  .ifActive (.waitToSend (.completes _ _ (((State.Appends.refl s).setCtx _).sendBurst hardware _)))

/-- Outside the fault state `CSR_READ` runs its checks like every other command (R271). -/
theorem execCsrRead_eq_command (hs : s.ready) : execCsrRead ch arg s =
    s.command .csrRead ch [notGlobal ch, ((s.csrRead hardware arg).isNone, .badArgument)]
      (.next (s.complete .csrRead [(s.csrRead hardware arg).getD 0])) := by
  have hf : s.faulted = false := hs
  simp only [execCsrRead, State.command, hf]
  cases firstFault _ <;> rfl

/-- A command that only answers. -/
theorem RunsChecks.pure {checks : List (Bool × FaultCode)} {ws : List Word}
    (hchecks : firstFault checks = firstFault (i.ruleChecks s)) :
    RunsChecks i s (s.command i.opcode i.ch checks (.next (s.complete i.opcode ws))) :=
  .intro checks _ hchecks (.pure ws)

/-- A command that writes its context. -/
theorem RunsChecks.setCtx {checks : List (Bool × FaultCode)} {c : Ctx} {ws : List Word}
    (hchecks : firstFault checks = firstFault (i.ruleChecks s)) :
    RunsChecks i s (s.command i.opcode i.ch checks (.next ((s.setCtx ch c).complete i.opcode ws))) :=
  .intro checks _ hchecks (.completes _ ws ((State.Appends.refl s).setCtx c))

/-! ## Command by command -/

theorem execL2Data_runsChecks {frame : List Word} : RunsChecks (.l2Data ch arg frame) s (execL2Data ch arg frame s) := by
  refine .intro _ _ (by rw [argUsed_eq, Kind.takesData_eq]; rfl) ?_
  split
  · exact .ifActive (.completes _ [] ((State.Appends.refl s).updEnc _))
  · exact .ifActive (.waitToSend (.completes _ [] (((State.Appends.refl s).setCtx _).sendFrame hardware _)))

theorem execRxBurst_runsChecks {time meas : Word} {sym : List Word} :
    RunsChecks (.rxBurst ch arg time meas sym) s (execRxBurst ch arg time meas sym s) := by
  refine .intro _ _ ?_ ?_
  · rw [argUsed_eq, legalSoft_unpackSoft, demuxFails_eq, firstFault_cons, firstFault_cons, firstFault_and]
    rfl
  · split
    · exact .completes _ [] ((State.Appends.refl s).acceptBurst hardware _)
    · exact .pure []

theorem execRachService_runsChecks : RunsChecks (.rachService ch arg) s (execRachService ch arg s) := by
  refine .intro _ _ (by rw [argUsed_eq]; rfl) ?_
  split
  · exact .pure _
  · exact .completes _ _ (((State.Appends.refl s).updDec _).rachDecode hardware _)

theorem execTchSendSlot_runsChecks : RunsChecks (.tchSendSlot ch arg) s (execTchSendSlot ch arg s) :=
  .intro _ _ (by rw [argUsed_eq]; rfl) <|
    .ifActive (.waitToSend (.completes _ [] (((State.Appends.refl s).setCtx _).sendSlot hardware)))

theorem execTchSpeechPush_runsChecks {frame : List Word} :
    RunsChecks (.tchSpeechPush ch arg frame) s (execTchSpeechPush ch arg frame s) :=
  .intro _ _ (by rw [argUsed_eq]; rfl) (.ifActive (.completes _ [] ((State.Appends.refl s).updEnc _)))

theorem execChConfig_runsChecks {w0 : Word} {tx rx : MapRecord} :
    RunsChecks (.chConfig ch arg w0 tx rx) s (execChConfig ch arg w0 tx rx s) := by
  refine .setCtx ?_
  have hconfig : ((s.getCtx ch).cfg.running || (configurable hardware w0 tx rx).isNone)
      = !(!(s.getCtx ch).cfg.running && configMeets w0 tx rx) := by
    rw [configurable_isNone, Bool.not_and, Bool.not_not]
  rw [argUsed_eq, hconfig]
  rfl

/-- Every command but `RESET` runs the checks of R383 in their order, and completes or holds when all pass. -/
theorem exec_runsChecks (i : Instr) (hs : s.ready) (hreset : i.opcode ≠ .reset) : RunsChecks i s (exec i s) := by
  have hkeep := State.Appends.refl s
  cases i with
  | reset => exact absurd rfl hreset
  | nop | xcchCode | schCode | xcchInterleave | tchSpeechEncode | chStatus => exact .pure (by rw [argUsed_eq]; rfl)
  | csrRead ch =>
    show RunsChecks _ s (execCsrRead _ _ s)
    rw [execCsrRead_eq_command hs]
    exact .pure (by rw [csrRead_isNone (ch := ch)]; rfl)
  | csrWrite ch => exact .intro _ _ (by rw [csrWrite_isNone (ch := ch)]; rfl) (.completes _ [] (hkeep.setCsr _))
  | lsb8msb => exact .pure (by rw [lsb8msbLengthBad_eq]; rfl)
  | parEncode | parSyndrome => exact .pure (by rw [blockCode_isNone]; rfl)
  | rachCheck | burstMap => exact .pure (by rw [argAbove_eq]; rfl)
  | xcchDecode | burstUnmap | tchSpeechDecode => exact .pure (by rw [argUsed_eq, legalSoft_unpackSoft]; rfl)
  | convEncode => exact .pure (by rw [codeLengthBad_eq]; rfl)
  | viterbiDecode => exact .pure (by rw [codeLengthBad_eq, legalSoft_unpackSoft]; rfl)
  | xcchDeinterleave => exact .pure (by rw [argUsed_eq, softRows4, all_legalSoft_softRow]; rfl)
  | tchInterleave => exact .pure (by rw [argOffset_isNone]; rfl)
  | tchDeinterleave => exact .pure (by rw [argOffset_isNone, softRows8, all_legalSoft_softRow]; rfl)
  | fnAdd => exact .pure (by rw [argUsed_eq]; rfl)
  | fnDelta | timeCmp =>
    exact .pure (by rw [argUsed_eq, firstFault_cons, firstFault_cons, notTime, notTime, firstFault_and]; rfl)
  | mapReverse | mapRoll => exact .pure (by rw [State.mapChecks, argAbove_eq, Ctx.mapping_isNone]; rfl)
  | chConfig => exact execChConfig_runsChecks
  | chDeconfig | l2Release | l2Error | resync | ferGood | ferBad => exact .setCtx (by rw [argUsed_eq]; rfl)
  | l2Establish => exact .setCtx (by rw [argAbove_eq]; rfl)
  | phyRead => exact .setCtx (by rw [argUsed_eq, Kind.hasRing_eq]; rfl)
  | l2Data => exact execL2Data_runsChecks
  | rxBurst => exact execRxBurst_runsChecks
  | rachService => exact execRachService_runsChecks
  | idleFill =>
    exact .intro _ _ (by rw [argUsed_eq, Kind.hasRing_eq]; rfl) (.completes _ [] (hkeep.idleSteps hardware _))
  | schSend ch arg data =>
    exact .intro _ _ (by rw [argUsed_eq]; rfl) (sendOne_completesOrHolds (i := .schSend ch arg data))
  | fcchSend ch arg => exact .intro _ _ (by rw [argUsed_eq]; rfl) (sendOne_completesOrHolds (i := .fcchSend ch arg))
  | tchSendSlot => exact execTchSendSlot_runsChecks
  | tchSpeechPush => exact execTchSpeechPush_runsChecks
  | waitToSend => exact .intro _ _ (by rw [argUsed_eq]; rfl) (.waitToSend (.pure []))

/-- A command that completes with result `0x00` took no fault: `FAULT` changes only with an answer that carries its code. -/
theorem fault_of_completes {t : State} (h : exec i s = .next t) (hreset : i.opcode ≠ .reset) {ws : List Word}
    (hans : t.answers = s.answers ++ [okStatus i.opcode.code ws.length :: ws]) : t.csr.fault = s.csr.fault := by
  obtain ⟨-, hfault, -⟩ := registersAndPortsWrittenOnlyWhereListed i s t h
  refine (hfault hreset).resolve_right fun ⟨code, hcode, _, hcodeAns, _⟩ => ?_
  have hone : okStatus i.opcode.code ws.length :: ws = [(i.opcode.code ++ code) ++ 0#16] :=
    List.singleton_inj.1 (List.append_cancel_left (hans.symm.trans hcodeAns))
  obtain ⟨hstatus, -⟩ := List.cons_eq_cons.1 hone
  have hzero : code = 0#8 := by
    have hfield := congrArg (BitVec.extractLsb' 16 8) hstatus
    rw [okStatus, BitVec.extractLsb'_append_eq_of_le (by decide), BitVec.extractLsb'_append_eq_right,
      BitVec.extractLsb'_append_eq_of_le (by decide), BitVec.extractLsb'_append_eq_right] at hfield
    exact hfield.symm
  rw [hzero] at hcode
  exact absurd hcode (by decide)

end

/-- Settles O7: the checks of each command are those of the rule, so the first that fails is the same; an effect completes or
holds. -/
theorem checksRunInOrder : Obligations.ChecksRunInOrder := by
  intro i s hs hreset
  have hruns := exec_runsChecks i hs hreset
  rw [Instr.verdict_eq]
  generalize hexec : exec i s = r at hruns ⊢
  obtain ⟨checks, e, hchecks, he⟩ := hruns
  refine ⟨fun code hcode => ?faults, fun hnone => ?passes⟩
  case faults =>
    obtain ⟨f, hf, rfl⟩ := Option.map_eq_some_iff.1 hcode
    rw [State.command_of_fault hs (hchecks.trans hf), State.takeFault_eq_afterFault]
  case passes =>
    rw [State.command_of_pass hs (hchecks.trans (Option.map_eq_none_iff.1 hnone))] at hexec ⊢
    cases he with
    | holds => exact ⟨_, rfl, rfl, .inl rfl⟩
    | completes u ws hu =>
      have hans : (u.complete i.opcode ws).answers = s.answers ++ [okStatus i.opcode.code ws.length :: ws] := by
        rw [State.complete_answers, hu.answers]
        rfl
      exact ⟨_, rfl, fault_of_completes hexec hreset hans, .inr ⟨ws, hans⟩⟩

end Sys2Proof
end
